-- ==== Sys2Proof/Word.lean ====
section
/-! DEFINITION. The word types of the hardware (spec/10_state.md rules R26 to R28, spec/00_scope.md rules R6, R8).

Bit 0 is the least significant bit of every word (rule R8). All values are unsigned (rule R9). -/

namespace Sys2Proof

/-- A 16-bit word: a codeword (rule R27), a mask (rule R13) or a candidate mask (rule R114). -/
abbrev Word := BitVec 16

/-- An 11-bit payload (rule R26). -/
abbrev Payload := BitVec 11

/-- A bit position of a codeword, 0 to 15 (rules R41, R102): four bits, so in range by its type. -/
abbrev Position := BitVec 4

/-- The four check outcomes `{D, C, B, A}`, check A in bit 0 (rules R28, R59). -/
abbrev Syndrome := BitVec 4

end Sys2Proof
end

