-- ==== Sys2Proof/Config.lean ====
section
/-! DEFINITION. What is fixed for the hardware and what the spec leaves open
(spec/00_scope.md rules R6, R7; spec/92_eei_decisions.md D4, D5; spec/93_implementation_defined.md U2, U3). -/

namespace Sys2Proof.Config

/-- Codeword width `N` (rule R6). -/
def codewordWidth : Nat := 16

/-- Payload width `K` (rule R6). -/
def payloadWidth : Nat := 11

/-- The number of group checks, `NCHECK` (rule R6). -/
def checkCount : Nat := 4

/-- The number of overall parity bits, `NMETA` (rule R6). -/
def metaCount : Nat := 1

/-- Width of a bit position, `POS_W` (rule R6). -/
def positionWidth : Nat := 4

/-- The first integer that is no payload: `PAYLOAD_MAX + 1` (rules R6, R26, R88). -/
def payloadBound : Nat := 2048

/-- `PAYLOAD_IN_W`, the width of the encoder's payload input (rule R7, decision D4): the spec's default.
`Machine.encoderPorts` takes the width as an argument. -/
def payloadInWidth : Nat := 16

/-- Width of the status at the port, `STATUS_W` (rule R7). -/
def statusWidth : Nat := 5

/-- FREE VALUE. What the `codeword_o` wires of an encoder with a payload port of `width` bits carry while `invalid_o` is 1
(U2: any value), as a function of the word on `payload_i` (rule R20: a function of the present inputs). It has no body, so
nothing can be proved of it, and nothing relates the words of encoders of two port widths.

DESIGN CHOICE (log entry 4): the model is of ONE build. U2 lets the word differ from one build to another; here two encoders
of the same port width carry the same word for the same payload. -/
opaque codewordOnInvalid : (width : Nat) → BitVec width → Word

end Sys2Proof.Config
end

