-- ==== Sys2Proof/Syntax.lean ====
section
/-! DEFINITION. The eleven operations as syntax (spec/30_encoding.md rules R63, R70), and the form in which the
environment presents one: a selected operation and its operands.

The hardware has no instruction words and no opcode field (rule R55): an operation is selected by which block the
environment drives. `Drive.op` is that selection; it is not a bit pattern (log entry 2). -/

namespace Sys2Proof

/-- An operand of a line of a trace: "a literal or a name bound by an earlier line" (rule R70). The names are numbered
in the order in which they are bound, from 0 (log entry 1). -/
inductive Operand (α : Type) where
  /-- the value itself -/
  | lit (v : α)
  /-- the result that was bound as name number `x` -/
  | name (x : Nat)
deriving DecidableEq, Repr

/-- One constructor per row of `opcode_table.json`, operands in the order of rule R63's column "operands". -/
inductive Instr where
  /-- `PAR w, m` (rule R75) -/
  | par (w m : Operand Word)
  /-- `SPREAD p` (rule R85) -/
  | spread (p : Operand Payload)
  /-- `ENC v` (rule R88); `v` is the integer offered as payload -/
  | enc (v : Operand Nat)
  /-- `BITAT w, k` (rule R100) -/
  | bitat (w : Operand Word) (k : Operand Position)
  /-- `FLIP c, k` (rule R103) -/
  | flip (c : Operand Word) (k : Operand Position)
  /-- `SYN c` (rule R110) -/
  | syn (c : Operand Word)
  /-- `LOC syn` (rule R114) -/
  | loc (s : Operand Syndrome)
  /-- `CORB c, syn, pall` (rule R117) -/
  | corb (c : Operand Word) (s : Operand Syndrome) (pall : Operand Bool)
  /-- `COR c` (rule R119) -/
  | cor (c : Operand Word)
  /-- `DEC c` (rule R135) -/
  | dec (c : Operand Word)
  /-- `RECV c` (rule R140) -/
  | recv (c : Operand Word)
deriving DecidableEq, Repr

/-- Which operation the environment drives (rules R22, R55, R63). -/
inductive Op where
  | par | spread | enc | bitat | flip | syn | loc | corb | cor | dec | recv
deriving DecidableEq, Repr

/-- The selection an instruction belongs to. -/
def Instr.op : Instr → Op
  | .par _ _ => .par
  | .spread _ => .spread
  | .enc _ => .enc
  | .bitat _ _ => .bitat
  | .flip _ _ => .flip
  | .syn _ => .syn
  | .loc _ => .loc
  | .corb _ _ _ => .corb
  | .cor _ => .cor
  | .dec _ => .dec
  | .recv _ => .recv

/-- The number of operands of an operation (rule R63, column "operands"). -/
def Op.arity : Op → Nat
  | .par => 2
  | .spread => 1
  | .enc => 1
  | .bitat => 2
  | .flip => 2
  | .syn => 1
  | .loc => 1
  | .corb => 3
  | .cor => 1
  | .dec => 1
  | .recv => 1

/-- An operand as the environment presents it: a word of 16 wires, wire `i` carrying bit `i` (rule R42), or a
connection to the result bound as name number `x` (rule R70). -/
inductive Source where
  | word (w : Word)
  | name (x : Nat)
deriving DecidableEq, Repr

/-- One drive of the blocks' inputs: the operation selected and its operands, first operand first. -/
structure Drive where
  op : Op
  operands : List Source
deriving DecidableEq, Repr

end Sys2Proof
end

