-- ==== Sys2Proof/WellFormed.lean ====
section
/-! DEFINITION. Which instructions a drive can present. Every operand but ENC's is in range by its type; ENC's is an
integer and must fit the port of `PAYLOAD_IN_W` bits (spec/00_scope.md rule R7, spec/93_implementation_defined.md U3). -/

namespace Sys2Proof

/-- A literal offered as payload fits the port `payload_i` (rule R30). It need not be below 2048: ENC itself rejects
those values (rule R88). -/
def Instr.payloadFitsPort : Operand Nat → Bool
  | .lit v => decide (v < 2 ^ Config.payloadInWidth)
  | .name _ => true

/-- The instruction can be presented at the ports. -/
def Instr.wellFormed : Instr → Bool
  | .enc v => Instr.payloadFitsPort v
  | .par _ _ => true
  | .spread _ => true
  | .bitat _ _ => true
  | .flip _ _ => true
  | .syn _ => true
  | .loc _ => true
  | .corb _ _ _ => true
  | .cor _ => true
  | .dec _ => true
  | .recv _ => true

end Sys2Proof
end

