-- ==== Sys2Proof/Decode.lean ====
section
/-! DEFINITION. From a drive to an instruction, total, rejecting by name; the encoder; and the host's `decodeTableWord`.

An operand narrower than 16 bits occupies the low wires of its word and the wires above must be 0 (the patterns of
`opcode_table.json` and of spec/30_encoding.md rules R57 to R59 read with the most significant bit first). A position of
16 or more is refused (rules R66, R102; spec/93_implementation_defined.md U1). -/

namespace Sys2Proof

/-- Why a drive presents no operation. -/
inductive DecodeError where
  /-- The number of operands is not the operation's (rule R63). Raised by `decode`. Safe: nothing is evaluated. -/
  | operandCount (op : Op) (given : Nat)
  /-- A position outside 0 to 15: "the operation has no meaning" (rules R66, R102, U1). Raised by `decodePosition`.
  Safe: nothing is evaluated. -/
  | positionOutOfRange (w : Word)
  /-- A wire above the operand's width (rule R45) is 1. Raised by `decodePayload`, `decodeSyndrome`, `decodeBit`.
  Safe: nothing is evaluated. -/
  | operandTooWide (width : Nat) (w : Word)
deriving DecidableEq, Repr

/-- A 16-bit operand: every word is legal (rule R67). -/
def decodeWord : Source → Operand Word
  | .word w => .lit w
  | .name x => .name x

/-- ENC's operand: the integer on the `PAYLOAD_IN_W` wires (rule R57). -/
def decodePayloadInteger : Source → Operand Nat
  | .word w => .lit w.toNat
  | .name x => .name x

/-- A position, 4 bits (rule R102). -/
def decodePosition : Source → Except DecodeError (Operand Position)
  | .word w => if w.toNat < 16 then .ok (.lit (w.setWidth 4)) else .error (.positionOutOfRange w)
  | .name x => .ok (.name x)

/-- A payload, 11 bits (rule R26). -/
def decodePayload : Source → Except DecodeError (Operand Payload)
  | .word w => if w.toNat < 2048 then .ok (.lit (w.setWidth 11)) else .error (.operandTooWide 11 w)
  | .name x => .ok (.name x)

/-- A syndrome, 4 bits (rule R59). -/
def decodeSyndrome : Source → Except DecodeError (Operand Syndrome)
  | .word w => if w.toNat < 16 then .ok (.lit (w.setWidth 4)) else .error (.operandTooWide 4 w)
  | .name x => .ok (.name x)

/-- The overall parity, 1 bit (rule R59). -/
def decodeBit : Source → Except DecodeError (Operand Bool)
  | .word w => if w.toNat < 2 then .ok (.lit (w.getLsbD 0)) else .error (.operandTooWide 1 w)
  | .name x => .ok (.name x)

/-- The instruction a drive presents (rule R63's signatures). -/
def decode (d : Drive) : Except DecodeError Instr :=
  match d.op, d.operands with
  | .par, [w, m] => .ok (.par (decodeWord w) (decodeWord m))
  | .spread, [p] => do return .spread (← decodePayload p)
  | .enc, [v] => .ok (.enc (decodePayloadInteger v))
  | .bitat, [w, k] => do return .bitat (decodeWord w) (← decodePosition k)
  | .flip, [c, k] => do return .flip (decodeWord c) (← decodePosition k)
  | .syn, [c] => .ok (.syn (decodeWord c))
  | .loc, [s] => do return .loc (← decodeSyndrome s)
  | .corb, [c, s, q] => do return .corb (decodeWord c) (← decodeSyndrome s) (← decodeBit q)
  | .cor, [c] => .ok (.cor (decodeWord c))
  | .dec, [c] => .ok (.dec (decodeWord c))
  | .recv, [c] => .ok (.recv (decodeWord c))
  | op, operands => .error (.operandCount op operands.length)

/-- A 16-bit operand on its wires. -/
def encodeWord : Operand Word → Source
  | .lit v => .word v
  | .name x => .name x

/-- ENC's integer on the port's wires; it fits them when the instruction is well formed. -/
def encodePayloadInteger : Operand Nat → Source
  | .lit v => .word (BitVec.ofNat 16 v)
  | .name x => .name x

/-- A position on the low four wires. -/
def encodePosition : Operand Position → Source
  | .lit v => .word (v.setWidth 16)
  | .name x => .name x

/-- A payload on the low eleven wires. -/
def encodePayload : Operand Payload → Source
  | .lit v => .word (v.setWidth 16)
  | .name x => .name x

/-- A syndrome on the low four wires. -/
def encodeSyndrome : Operand Syndrome → Source
  | .lit v => .word (v.setWidth 16)
  | .name x => .name x

/-- A bit on the lowest wire. -/
def encodeBit : Operand Bool → Source
  | .lit v => .word ((BitVec.ofBool v).setWidth 16)
  | .name x => .name x

/-- The drive that presents an instruction. -/
def encode : Instr → Drive
  | .par w m => ⟨.par, [encodeWord w, encodeWord m]⟩
  | .spread p => ⟨.spread, [encodePayload p]⟩
  | .enc v => ⟨.enc, [encodePayloadInteger v]⟩
  | .bitat w k => ⟨.bitat, [encodeWord w, encodePosition k]⟩
  | .flip c k => ⟨.flip, [encodeWord c, encodePosition k]⟩
  | .syn c => ⟨.syn, [encodeWord c]⟩
  | .loc s => ⟨.loc, [encodeSyndrome s]⟩
  | .corb c s q => ⟨.corb, [encodeWord c, encodeSyndrome s, encodeBit q]⟩
  | .cor c => ⟨.cor, [encodeWord c]⟩
  | .dec c => ⟨.dec, [encodeWord c]⟩
  | .recv c => ⟨.recv, [encodeWord c]⟩

/-- The operand words of the number `w` read as the table numbers bits: bits 15..0 are the first word. -/
def tableWords (w : Nat) : Nat → List Source
  | 0 => []
  | n + 1 => .word (BitVec.ofNat 16 w) :: tableWords (w / 65536) n

/-- The drive a table word stands for. The table gives a row only its first operand word, which "does not select the
operation" (rule R64), so `nbits` and `w` name no operation: LOC is the one row of at most 8 bits, and a wider word is
taken as ENC's operand, the one row whose pattern has fixed bits (log entry 3, DESIGN CHOICE). -/
def tableDrive (nbits w : Nat) : Drive :=
  { op := if nbits ≤ 8 then .loc else .enc
    operands := tableWords (w % 2 ^ nbits) ((nbits + 15) / 16) }

/-- The instruction the decoder reads from a table word (log entry 3). -/
def decodeTableWord (nbits w : Nat) : Option Instr :=
  match decode (tableDrive nbits w) with
  | .ok i => some i
  | .error _ => none

end Sys2Proof
end

