-- ==== Sys2Proof/Machine/State.lean ====
section
/-! DEFINITION. The state of the model, the values results have, and the reasons a step can stop.

THE HARDWARE HOLDS NO STATE (spec/10_state.md rules R20 to R25, R35; spec/00_scope.md rule R15), so no field of `State`
is a register of it. The two fields are the ENVIRONMENT's (rule R14): the lines of a trace it has still to drive and the
names it has bound to the results it took (spec/30_encoding.md rule R70: "names are values, not registers"); log entry 1. -/

namespace Sys2Proof.Machine

/-- The status of a correction: "exactly two forms" (spec/10_state.md rule R29). -/
inductive ErrorStatus where
  /-- `NoError` -/
  | noError
  /-- `CorrectedSingleBitError(position)` -/
  | corrected (position : Position)
deriving DecidableEq, Repr

/-- A result of an operation (rule R45, column "results"). -/
inductive Value where
  /-- one bit: a parity (1 = odd, rule R10) or a selected bit -/
  | bit (b : Bool)
  /-- a 16-bit word -/
  | word (w : Word)
  /-- an 11-bit payload -/
  | payload (p : Payload)
  /-- a 4-bit syndrome -/
  | syndrome (s : Syndrome)
  /-- a status -/
  | status (st : ErrorStatus)
deriving DecidableEq, Repr

/-- Why the machine stops with a fault. -/
inductive Fault where
  /-- `InvalidPayload(v)`: the integer `v` offered to ENC is 2048 or more (spec/60_exceptions.md rules R150, R151).
  Raised by ENC alone. Safe: it is the spec's own outcome. -/
  | invalidPayload (v : Nat)
deriving DecidableEq, Repr

/-- Why there is no meaning. -/
inductive Refusal where
  /-- An operation that has no meaning yet. Raised by no arm of `exec`. Safe. -/
  | notModelled (mnemonic : String)
  /-- An operand names a result that no earlier line bound; rule R70 lets a line name only earlier results. Raised by
  every operation that reads an operand. Safe: nothing is evaluated (log entry 5). -/
  | unboundName (x : Nat)
  /-- An operand names a result of another kind or width than the operand's (rule R45). Raised by every operation that
  reads an operand. Safe: nothing is evaluated (log entry 5). -/
  | operandKind (x : Nat)
  /-- The drive presents no operation. Raised by `step`. Safe: nothing is evaluated (log entry 6). -/
  | undecodable (e : DecodeError)
  /-- The environment drives nothing, so there is no operation to evaluate (rules R20, R176). Raised by `step`.
  Safe (log entry 7). -/
  | nothingDriven
deriving DecidableEq, Repr

/-- The environment's side of the blocks; the blocks themselves hold nothing (rule R20). -/
structure State where
  /-- the lines of the trace not yet driven, the next one first (rule R70: "evaluated top to bottom") -/
  pending : List Drive
  /-- the results bound so far, name number 0 first (rule R70: "A name is bound once") -/
  bindings : List Value
deriving DecidableEq, Repr

/-- Before anything happens: no line is waiting and no name is bound (spec/95_test_vectors.md section 5, "Start state of
every program: none"). The hardware has no reset and nothing to reset (rules R35, R175). -/
def State.reset : State := { pending := [], bindings := [] }

/-- The outcome of evaluating an operation. -/
abbrev Result := Host.Outcome State Fault Refusal

end Sys2Proof.Machine
end

