-- ==== Sys2Proof/Machine/Ops.lean ====
section
/-! DEFINITION. The operations the meanings share: the wired constants, the bit notation of spec/00_scope.md rule R9,
binding results, and raising the one fault.

There is no memory and there are no registers to read or write (spec/20_memory.md rule R40, spec/10_state.md rule R21). -/

namespace Sys2Proof.Machine

/-- `MASK_A`: the odd positions (rule R13). -/
def maskA : Word := 0xAAAA#16

/-- `MASK_B`: {2, 3, 6, 7, 10, 11, 14, 15} (rule R13). -/
def maskB : Word := 0xCCCC#16

/-- `MASK_C`: {4, 5, 6, 7, 12, 13, 14, 15} (rule R13). -/
def maskC : Word := 0xF0F0#16

/-- `MASK_D`: the upper half (rule R13). -/
def maskD : Word := 0xFF00#16

/-- `MASK_ALL`: every position (rule R13). -/
def maskAll : Word := 0xFFFF#16

/-- `MASK_DATA`: the data positions (rule R13). -/
def maskData : Word := 0xFEE8#16

/-- `MASK_PARITY`: the parity and meta positions (rule R13). -/
def maskParity : Word := 0x0117#16

/-- `DATA_POS`: the position of payload bit 0, 1, ..., 10 (rules R6, R60). -/
def dataPos : List Nat := [3, 5, 6, 7, 9, 10, 11, 12, 13, 14, 15]

/-- The number of 1-bits of `w` below bit `n`. -/
def popcountBelow {width : Nat} (w : BitVec width) : Nat → Nat
  | 0 => 0
  | n + 1 => popcountBelow w n + (w.getLsbD n).toNat

/-- `popcount(w)` (rule R9). -/
def popcount {width : Nat} (w : BitVec width) : Nat := popcountBelow w width

/-- `xor_reduce(w) = popcount(w) mod 2` (rule R9). -/
def xorReduce {width : Nat} (w : BitVec width) : Bool := popcount w % 2 == 1

/-- `1 << k`, also written `onehot16(k)` (rule R9). -/
def oneHot (k : Position) : Word := 1#16 <<< k.toNat

/-- `b << i` on words of a given width: bit `i` is `b`, every other bit 0 (rule R9). -/
def bitShift (width : Nat) (b : Bool) (i : Nat) : BitVec width := (BitVec.ofBool b).setWidth width <<< i

/-- Bind the results of one line, in the order the line names them (rule R70). Earlier names keep their values. -/
def State.bind (s : State) (results : List Value) : State :=
  { s with bindings := s.bindings ++ results }

/-- The operation completed with these results. -/
def finish (s : State) (results : List Value) : Result := .next (s.bind results)

/-- `raise InvalidPayload(v)`: the one fault. Nothing is saved, no mode changes, control goes nowhere, no result exists
(spec/60_exceptions.md rules R150, R156); and there is no return from it (rule R157). -/
def raiseInvalidPayload (v : Nat) : Result := .fault (.invalidPayload v)

/-- Put a trace before the environment: nothing is bound yet (spec/95_test_vectors.md section 5). -/
def State.ofTrace (lines : List Drive) : State := { pending := lines, bindings := [] }

end Sys2Proof.Machine
end

