-- ==== Sys2Proof/Machine/Operands.lean ====
section
/-! DEFINITION. Reading an operand: a literal, or a name bound by an earlier line (spec/30_encoding.md rule R70). A named
result must have the operand's kind and width (spec/20_memory.md rule R45; log entry 5). -/

namespace Sys2Proof.Machine

/-- Go on with the operand's value, or stop with the refusal that reading it gave. -/
def supply {α : Type} (operand : Except Refusal α) (use : α → Result) : Result :=
  match operand with
  | .ok v => use v
  | .error r => .refused r

/-- The value bound as name number `x`. -/
def State.lookup (s : State) (x : Nat) : Except Refusal Value :=
  match s.bindings[x]? with
  | some v => .ok v
  | none => .error (.unboundName x)

/-- Read a name, keeping the values `accept` takes. -/
def State.readName {α : Type} (s : State) (accept : Value → Option α) (x : Nat) : Except Refusal α :=
  match s.lookup x with
  | .error r => .error r
  | .ok v =>
    match accept v with
    | some a => .ok a
    | none => .error (.operandKind x)

/-- Read an operand in either form. -/
def State.read {α : Type} (s : State) (accept : Value → Option α) : Operand α → Except Refusal α
  | .lit v => .ok v
  | .name x => s.readName accept x

/-- A 16-bit operand takes a word. -/
def Value.asWord : Value → Option Word
  | .word w => some w
  | _ => none

/-- An 11-bit operand takes a payload. -/
def Value.asPayload : Value → Option Payload
  | .payload p => some p
  | _ => none

/-- ENC's operand is an unsigned integer (rule R88): the number a payload or a 16-bit word spells. -/
def Value.asInteger : Value → Option Nat
  | .payload p => some p.toNat
  | .word w => some w.toNat
  | _ => none

/-- A 4-bit operand takes a syndrome; "read as a number 0 to 15 it is the position the checks point at" (rule R28). -/
def Value.asNibble : Value → Option (BitVec 4)
  | .syndrome s => some s
  | _ => none

/-- A 1-bit operand takes a bit. -/
def Value.asBit : Value → Option Bool
  | .bit b => some b
  | _ => none

/-- A word operand. -/
def State.readWord (s : State) (a : Operand Word) : Except Refusal Word := s.read Value.asWord a

/-- A payload operand. -/
def State.readPayload (s : State) (a : Operand Payload) : Except Refusal Payload := s.read Value.asPayload a

/-- The integer offered to ENC. -/
def State.readInteger (s : State) (a : Operand Nat) : Except Refusal Nat := s.read Value.asInteger a

/-- A position operand. -/
def State.readPosition (s : State) (a : Operand Position) : Except Refusal Position := s.read Value.asNibble a

/-- A syndrome operand. -/
def State.readSyndrome (s : State) (a : Operand Syndrome) : Except Refusal Syndrome := s.read Value.asNibble a

/-- A bit operand. -/
def State.readBit (s : State) (a : Operand Bool) : Except Refusal Bool := s.read Value.asBit a

end Sys2Proof.Machine
end

