-- ==== Sys2Proof/Machine/BitUtilities.lean ====
section
/-! DEFINITION. The bit utilities BITAT and FLIP (spec/42_bit_utilities.md). Neither is a block: BITAT is the notation
`w[k]`, FLIP is a move of the environment (rule R105), and the driver of the trace is that environment. -/

namespace Sys2Proof.Machine

/-- `BITAT(w, k) = w[k]` (rule R100). -/
def bitAt (w : Word) (k : Position) : Bool := w.getLsbD k.toNat

/-- `FLIP(c, k) = c ^ (1 << k)` (rule R103). -/
def flipBit (c : Word) (k : Position) : Word := c ^^^ oneHot k

/-- BITAT: one bit; no flag, no fault (rule R100). -/
def execBitat (w : Operand Word) (k : Operand Position) (s : State) : Result :=
  supply (s.readWord w) fun w =>
  supply (s.readPosition k) fun k =>
  finish s [.bit (bitAt w k)]

/-- FLIP: one word; no flag, no fault (rule R103). -/
def execFlip (c : Operand Word) (k : Operand Position) (s : State) : Result :=
  supply (s.readWord c) fun c =>
  supply (s.readPosition k) fun k =>
  finish s [.word (flipBit c k)]

end Sys2Proof.Machine
end

