-- ==== Sys2Proof/Machine/ParityTree.lean ====
section
/-! DEFINITION. The block `parity_tree`: PAR (spec/40_parity_tree.md). -/

namespace Sys2Proof.Machine

/-- `PAR(w, m)`: the parity of the bits of `w` at the positions of the group `m`, 1 = odd (rule R75). -/
def par (w m : Word) : Bool := xorReduce (w &&& m)

/-- PAR: one bit; no flag, no fault (rule R75). -/
def execPar (w m : Operand Word) (s : State) : Result :=
  supply (s.readWord w) fun w =>
  supply (s.readWord m) fun m =>
  finish s [.bit (par w m)]

end Sys2Proof.Machine
end

