-- ==== Sys2Proof/Machine/Corrector.lean ====
section
/-! DEFINITION. SYN of the block `hamming_16_11_decoder_syndrome`, LOC and CORB of the block `hamming_16_11_corrector`,
and their chain COR (spec/43_syndrome_and_corrector.md). -/

namespace Sys2Proof.Machine

/-- `SYN(c)`: the four group checks `{d, c, b, a}` and the overall check (rule R110). They are computed always, also when
the overall parity is even (rule R128). -/
def syn (c : Word) : Syndrome × Bool :=
  let a := par c maskA
  let b := par c maskB
  let cc := par c maskC
  let d := par c maskD
  (BitVec.ofBool d ++ BitVec.ofBool cc ++ BitVec.ofBool b ++ BitVec.ofBool a, par c maskAll)

/-- One narrowing of the candidates: a check that is odd keeps its group, one that is even the complement (rules R112,
R114). -/
def narrow (candidates : Word) (odd : Bool) (group : Word) : Word :=
  candidates &&& (if odd then group else ~~~group)

/-- `LOC(syn)`: the four narrowings, by A, B, C and D (rule R114). -/
def loc (s : Syndrome) : Word :=
  let cand1 := narrow 0xFFFF#16 (s.getLsbD 0) maskA
  let cand2 := narrow cand1 (s.getLsbD 1) maskB
  let cand3 := narrow cand2 (s.getLsbD 2) maskC
  narrow cand3 (s.getLsbD 3) maskD

/-- `CORB(c, syn, pall)`: total in its three operands, whether or not `syn` and `pall` are those of `c` (rule R117;
spec/93_implementation_defined.md U9). With `pall` 0 the syndrome is ignored: a double error is not detected and there is
no third status (rule R122; spec/90_conflicts.md C3). -/
def corb (c : Word) (s : Syndrome) (pall : Bool) : Word × ErrorStatus :=
  if pall then (c ^^^ loc s, .corrected s) else (c, .noError)

/-- `COR(c)`: the source's `correct` (rule R119). -/
def cor (c : Word) : Word × ErrorStatus :=
  let (s, pall) := syn c
  corb c s pall

/-- SYN: the syndrome and the overall parity; no flag, no fault (rule R110). -/
def execSyn (c : Operand Word) (s : State) : Result :=
  supply (s.readWord c) fun c =>
  let (syndrome, pall) := syn c
  finish s [.syndrome syndrome, .bit pall]

/-- LOC: one word with exactly one bit set; no flag, no fault (rule R114). -/
def execLoc (syndrome : Operand Syndrome) (s : State) : Result :=
  supply (s.readSyndrome syndrome) fun syndrome =>
  finish s [.word (loc syndrome)]

/-- CORB: the codeword and the status; no flag, no fault (rule R117). -/
def execCorb (c : Operand Word) (syndrome : Operand Syndrome) (pall : Operand Bool) (s : State) : Result :=
  supply (s.readWord c) fun c =>
  supply (s.readSyndrome syndrome) fun syndrome =>
  supply (s.readBit pall) fun pall =>
  let (corrected, status) := corb c syndrome pall
  finish s [.word corrected, .status status]

/-- COR: the codeword and the status; no flag, no fault, for every 16-bit word (rules R67, R119). -/
def execCor (c : Operand Word) (s : State) : Result :=
  supply (s.readWord c) fun c =>
  let (corrected, status) := cor c
  finish s [.word corrected, .status status]

end Sys2Proof.Machine
end

