-- ==== Sys2Proof/Machine/Decoder.lean ====
section
/-! DEFINITION. DEC of the block `hamming_16_11_decoder_syndrome` and the receive path RECV (spec/44_decoder.md). -/

namespace Sys2Proof.Machine

/-- Take payload bits `i`, `i + 1`, ... from the listed positions of a word. -/
def gather (c : Word) (i : Nat) : List Nat → Payload
  | [] => 0b00000000000#11
  | position :: rest => bitShift 11 (c.getLsbD position) i ||| gather c (i + 1) rest

/-- `DEC(c)`: payload bit `i` from position `DATA_POS[i]`; no correction, nothing checked (rules R61, R135, R139). -/
def dec (c : Word) : Payload := gather c 0 dataPos

/-- `RECV(c)`: correct, then decode the corrected word (rule R140; spec/90_conflicts.md C7). -/
def recv (c : Word) : Word × Payload × ErrorStatus :=
  let (c2, status) := cor c
  (c2, dec c2, status)

/-- DEC: one payload; no flag, no fault (rule R135). -/
def execDec (c : Operand Word) (s : State) : Result :=
  supply (s.readWord c) fun c =>
  finish s [.payload (dec c)]

/-- RECV: the corrected codeword, the recovered payload and the status; no flag, no fault (rule R140). -/
def execRecv (c : Operand Word) (s : State) : Result :=
  supply (s.readWord c) fun c =>
  let (corrected, payload, status) := recv c
  finish s [.word corrected, .payload payload, .status status]

end Sys2Proof.Machine
end

