-- ==== Sys2Proof/Machine/Encoder.lean ====
section
/-! DEFINITION. The block `hamming_16_11_encoder`: SPREAD and ENC (spec/41_encoder.md). -/

namespace Sys2Proof.Machine

/-- Place payload bits `i`, `i + 1`, ... at the listed positions of a word that is 0 elsewhere. -/
def scatter (p : Payload) (i : Nat) : List Nat → Word
  | [] => 0x0000#16
  | position :: rest => bitShift 16 (p.getLsbD i) position ||| scatter p (i + 1) rest

/-- `SPREAD(p)`: payload bit `i` at position `DATA_POS[i]`, the parity positions 0 (rules R60, R85). -/
def spread (p : Payload) : Word := scatter p 0 dataPos

/-- "Compute and set" a position that holds 0: write the parity of the group into it (rule R88, steps 2 to 6). -/
def setParity (w : Word) (group : Word) (position : Nat) : Word :=
  w ||| bitShift 16 (par w group) position

/-- The six steps of ENC on a payload that passed the range check (rule R88). -/
def encodePayloadBits (p : Payload) : Word :=
  let w0 := spread p
  let w1 := setParity w0 maskA 1
  let w2 := setParity w1 maskB 2
  let w3 := setParity w2 maskC 4
  let w4 := setParity w3 maskD 8
  setParity w4 maskAll 0

/-- `ENC(v)`: the range check comes first and the value is never truncated (rules R88, R155). -/
def enc (v : Nat) : Except Fault Word :=
  if v ≥ Config.payloadBound then .error (.invalidPayload v)
  else .ok (encodePayloadBits (BitVec.ofNat 11 v))

/-- SPREAD: one word; no flag, no fault (rule R85). -/
def execSpread (p : Operand Payload) (s : State) : Result :=
  supply (s.readPayload p) fun p =>
  finish s [.word (spread p)]

/-- ENC: the codeword, or the fault `InvalidPayload` and no codeword (rules R88, R150). -/
def execEnc (v : Operand Nat) (s : State) : Result :=
  supply (s.readInteger v) fun v =>
  match enc v with
  | .ok c => finish s [.word c]
  | .error (.invalidPayload offered) => raiseInvalidPayload offered

end Sys2Proof.Machine
end

