-- ==== Sys2Proof/Machine/Dispatch.lean ====
section
/-! DEFINITION. One arm per operation of spec/30_encoding.md rule R63. -/

namespace Sys2Proof.Machine

/-- Evaluate one operation. -/
def exec (i : Instr) (s : State) : Host.Outcome State Fault Refusal :=
  match i with
  | .par w m => Sys2Proof.Machine.execPar w m s
  | .spread p => Sys2Proof.Machine.execSpread p s
  | .enc v => Sys2Proof.Machine.execEnc v s
  | .bitat w k => Sys2Proof.Machine.execBitat w k s
  | .flip c k => Sys2Proof.Machine.execFlip c k s
  | .syn c => Sys2Proof.Machine.execSyn c s
  | .loc y => Sys2Proof.Machine.execLoc y s
  | .corb c y q => Sys2Proof.Machine.execCorb c y q s
  | .cor c => Sys2Proof.Machine.execCor c s
  | .dec c => Sys2Proof.Machine.execDec c s
  | .recv c => Sys2Proof.Machine.execRecv c s

end Sys2Proof.Machine
end

