-- ==== Sys2Proof/Machine/Step.lean ====
section
/-! DEFINITION. One step: the environment drives the next line of its trace and takes the results (spec/30_encoding.md
rule R70: "evaluated top to bottom"). A fault ends the trace; no later line is evaluated. There is no program counter and
no fetch from memory (spec/10_state.md rule R22; spec/20_memory.md rule R51). -/

namespace Sys2Proof.Machine

/-- The state once the next line has been taken from the trace. -/
def State.withPending (s : State) (rest : List Drive) : State := { s with pending := rest }

/-- One step of the trace (log entries 6 and 7 for its two refusals). -/
def step (s : State) : Host.Outcome State Fault Refusal :=
  match s.pending with
  | [] => .refused .nothingDriven
  | d :: rest =>
    match decode d with
    | .error e => .refused (.undecodable e)
    | .ok i => exec i (s.withPending rest)

/-- Put the drive of a table word before the rest of the trace, so that the next step evaluates it (log entries 1, 3). -/
def State.withFetchWord (s : State) (nbits w : Nat) : State := s.withPending (tableDrive nbits w :: s.pending)

end Sys2Proof.Machine
end

