-- ==== Sys2Proof/Machine/CodeBlock.lean ====
section
/-! DEFINITION. The CodeBlock record of the surrounding software (spec/10_state.md rules R33, R34; spec/20_memory.md rule
R52). It is no state of the hardware (decision D10), so it stands beside `State` and not in it; one sequential agent owns
it. -/

namespace Sys2Proof.Machine

/-- The three fields of a CodeBlock (rule R33). -/
structure CodeBlock where
  /-- written by creation, fault injection and correction -/
  codeword : Word
  /-- written by creation only -/
  snapshot : Word
  /-- written by creation only -/
  payload : Payload
deriving DecidableEq, Repr

/-- Creation from a payload; it fails with `InvalidPayload` as ENC does (rule R33). -/
def CodeBlock.create (v : Nat) : Except Fault CodeBlock :=
  match enc v with
  | .ok c => .ok { codeword := c, snapshot := c, payload := BitVec.ofNat 11 v }
  | .error r => .error r

/-- Fault injection: `codeword <- FLIP(codeword, k)` (rule R34). -/
def CodeBlock.injectFault (b : CodeBlock) (k : Position) : CodeBlock :=
  { b with codeword := flipBit b.codeword k }

/-- Correction: `codeword <- c'` where `(c', status) = COR(codeword)` (rule R34). -/
def CodeBlock.fix (b : CodeBlock) : CodeBlock × ErrorStatus :=
  let (c, status) := cor b.codeword
  ({ b with codeword := c }, status)

end Sys2Proof.Machine
end

