-- ==== Sys2Proof/Machine/Flags.lean ====
section
/-! DEFINITION. The hardware has no flag register (spec/10_state.md rule R23). It has one status, which is a result; this
file gives its two forms their 5 bits at the port (spec/30_encoding.md rule R58, decision D6). -/

namespace Sys2Proof.Machine

/-- `err`: 0 for `NoError`, 1 for `Corrected(k)`. -/
def ErrorStatus.err : ErrorStatus → Bool
  | .noError => false
  | .corrected _ => true

/-- `pos[3:0]`: the corrected position, `0b0000` for `NoError`. -/
def ErrorStatus.pos : ErrorStatus → Position
  | .noError => 0#4
  | .corrected k => k

/-- The status at the port: `{err, pos[3:0]}`. -/
def ErrorStatus.bits (st : ErrorStatus) : BitVec 5 := BitVec.ofBool st.err ++ st.pos

/-- The status that 5 bits stand for. A pattern with `err` 0 and a non-zero `pos` is never produced and stands for
none (rule R58; spec/93_implementation_defined.md U7). -/
def ErrorStatus.ofBits (b : BitVec 5) : Option ErrorStatus :=
  if b.getLsbD 4 then some (.corrected (b.setWidth 4))
  else if b = 0#5 then some .noError
  else none

end Sys2Proof.Machine
end

