-- ==== Sys2Proof/Machine/Ports.lean ====
section
/-! DEFINITION. The port level: each block as the function from its input signals to its output signals, written as the
wiring the spec describes (spec/10_state.md rules R30, R31; spec/40_parity_tree.md rule R77; spec/41_encoder.md rule R89;
spec/44_decoder.md rule R142), not through the value-level functions. Combinational: no clock, no storage (rule R180).
That the two levels agree is stated as obligations. -/

namespace Sys2Proof.Machine

/-- A balanced tree of two-input exclusive-or gates over `2 ^ depth` wires starting at wire `start`. The shape is free and
cannot be observed (rule R77; log entry 8). -/
def xorTree (w : Word) : Nat → Nat → Bool
  | 0, start => w.getLsbD start
  | depth + 1, start => xorTree w depth start ^^ xorTree w depth (start + 2 ^ depth)

/-- The block `parity_tree` with its instance constant `MASK`: `word_i` to `parity_o` (rule R30). -/
def parityTreePort (mask word_i : Word) : Bool := xorTree (word_i &&& mask) 4 0

/-- The output signals of `hamming_16_11_encoder` (rule R30). -/
structure EncoderOutputs where
  codeword_o : Word
  invalid_o : Bool
deriving DecidableEq, Repr

/-- The wires of SPREAD: `{p[10:4], 0, p[3:1], 0, p[0], 0, 0, 0}` (rule R60). -/
def spreadWires (p : Payload) : Word :=
  p.extractLsb' 4 7 ++ 0#1 ++ p.extractLsb' 1 3 ++ 0#1 ++ p.extractLsb' 0 1 ++ 0#3

/-- The encoder's codeword wires for a legal payload: the four group parities from the spread word at once, the meta bit
after them (rule R89), with five `parity_tree` instances (rule R30). -/
def encoderWires (p : Payload) : Word :=
  let w0 := spreadWires p
  let p1 := parityTreePort maskA w0
  let p2 := parityTreePort maskB w0
  let p3 := parityTreePort maskC w0
  let p4 := parityTreePort maskD w0
  let p0 := parityTreePort maskAll w0 ^^ p1 ^^ p2 ^^ p3 ^^ p4
  w0 ||| bitShift 16 p1 1 ||| bitShift 16 p2 2 ||| bitShift 16 p3 4 ||| bitShift 16 p4 8 ||| bitShift 16 p0 0

/-- The block `hamming_16_11_encoder` with a payload port of any width (rules R7, R30, decision D4): `invalid_o` is 1
exactly when the integer offered is 2048 or more, and `codeword_o` is then a free value of that port width and payload (U2,
decision D5; one build, log entry 4). -/
def encoderPorts {width : Nat} (payload_i : BitVec width) : EncoderOutputs :=
  if payload_i.toNat < Config.payloadBound then
    { codeword_o := encoderWires (payload_i.setWidth 11), invalid_o := false }
  else
    { codeword_o := Config.codewordOnInvalid width payload_i, invalid_o := true }

/-- The output signals of `hamming_16_11_decoder_syndrome` (rule R31). -/
structure DecoderSyndromeOutputs where
  syndrome_o : Syndrome
  parity_all_o : Bool
  payload_o : Payload
deriving DecidableEq, Repr

/-- The wires of DEC: `{c[15:9], c[7:5], c[3]}` (rule R61): "eleven wires, no gate" (rule R135). -/
def payloadWires (c : Word) : Payload := c.extractLsb' 9 7 ++ c.extractLsb' 5 3 ++ c.extractLsb' 3 1

/-- The block `hamming_16_11_decoder_syndrome`: five `parity_tree` instances and eleven wires (rule R31). The payload is
that of the word as it stands (rule R139). -/
def decoderSyndromePorts (codeword_i : Word) : DecoderSyndromeOutputs :=
  { syndrome_o :=
      BitVec.ofBool (parityTreePort maskD codeword_i) ++ BitVec.ofBool (parityTreePort maskC codeword_i) ++
        BitVec.ofBool (parityTreePort maskB codeword_i) ++ BitVec.ofBool (parityTreePort maskA codeword_i)
    parity_all_o := parityTreePort maskAll codeword_i
    payload_o := payloadWires codeword_i }

/-- The output signals of `hamming_16_11_corrector` (rule R31). -/
structure CorrectorOutputs where
  codeword_o : Word
  err_o : Bool
  pos_o : Position
deriving DecidableEq, Repr

/-- The block `hamming_16_11_corrector` (rules R31, R117): `codeword_o = c ^ (pall ? (1 << syn) : 0)`, `err_o = pall`,
`pos_o` forced to 0 when `err_o` is 0 (decision D6). -/
def correctorPorts (codeword_i : Word) (syndrome_i : Syndrome) (parity_all_i : Bool) : CorrectorOutputs :=
  { codeword_o := codeword_i ^^^ (if parity_all_i then oneHot syndrome_i else 0x0000#16)
    err_o := parity_all_i
    pos_o := if parity_all_i then syndrome_i else 0b0000#4 }

/-- What comes out of the receive path (rule R142). -/
structure ReceiveOutputs where
  codeword_o : Word
  payload_o : Payload
  err_o : Bool
  pos_o : Position
deriving DecidableEq, Repr

/-- The receive path as wiring of blocks: one decoder-syndrome instance and the corrector on the same word, and the
payload wires of the corrector's output (rules R142, R185). -/
def receivePathPorts (codeword_i : Word) : ReceiveOutputs :=
  let examined := decoderSyndromePorts codeword_i
  let corrected := correctorPorts codeword_i examined.syndrome_o examined.parity_all_o
  { codeword_o := corrected.codeword_o
    payload_o := (decoderSyndromePorts corrected.codeword_o).payload_o
    err_o := corrected.err_o
    pos_o := corrected.pos_o }

end Sys2Proof.Machine
end

