-- ==== Sys2Proof/Safety.lean ====
section
/-! DEFINITION. What a good trace is, and valid codewords.

A trace is well scoped when every line presents an operation and every operand is "a literal or a name bound by an earlier
line" (spec/30_encoding.md rule R70) whose result has the operand's kind and width (spec/20_memory.md rule R45). -/

namespace Sys2Proof.Machine

/-- The kind of a result (rule R45). -/
inductive Kind where
  | bit | word | payload | syndrome | status
deriving DecidableEq, Repr

/-- The kind of a value. -/
def Value.kind : Value → Kind
  | .bit _ => .bit
  | .word _ => .word
  | .payload _ => .payload
  | .syndrome _ => .syndrome
  | .status _ => .status

end Sys2Proof.Machine

namespace Sys2Proof

open Machine

/-- The kinds of results a name may have to stand for an operand: the accepted ones. -/
def Operand.scoped {α : Type} (kinds accepted : List Kind) : Operand α → Bool
  | .lit _ => true
  | .name x =>
    match kinds[x]? with
    | some k => accepted.contains k
    | none => false

/-- Every operand of the instruction can be read when the names bound so far have these kinds. -/
def Instr.scoped (kinds : List Kind) : Instr → Bool
  | .par w m => w.scoped kinds [.word] && m.scoped kinds [.word]
  | .spread p => p.scoped kinds [.payload]
  | .enc v => v.scoped kinds [.payload, .word]
  | .bitat w k => w.scoped kinds [.word] && k.scoped kinds [.syndrome]
  | .flip c k => c.scoped kinds [.word] && k.scoped kinds [.syndrome]
  | .syn c => c.scoped kinds [.word]
  | .loc s => s.scoped kinds [.syndrome]
  | .corb c s q => c.scoped kinds [.word] && s.scoped kinds [.syndrome] && q.scoped kinds [.bit]
  | .cor c => c.scoped kinds [.word]
  | .dec c => c.scoped kinds [.word]
  | .recv c => c.scoped kinds [.word]

/-- The name an operand refers to, if it is a name. -/
def Operand.names {α : Type} : Operand α → List Nat
  | .lit _ => []
  | .name x => [x]

/-- The names an operation reads. -/
def Instr.names : Instr → List Nat
  | .par w m => w.names ++ m.names
  | .spread p => p.names
  | .enc v => v.names
  | .bitat w k => w.names ++ k.names
  | .flip c k => c.names ++ k.names
  | .syn c => c.names
  | .loc s => s.names
  | .corb c s q => c.names ++ s.names ++ q.names
  | .cor c => c.names
  | .dec c => c.names
  | .recv c => c.names

/-- The kinds of the results of an operation, in the order a line names them (rules R45, R63, R70). -/
def Op.resultKinds : Op → List Kind
  | .par => [.bit]
  | .spread => [.word]
  | .enc => [.word]
  | .bitat => [.bit]
  | .flip => [.word]
  | .syn => [.syndrome, .bit]
  | .loc => [.word]
  | .corb => [.word, .status]
  | .cor => [.word, .status]
  | .dec => [.payload]
  | .recv => [.word, .payload, .status]

end Sys2Proof

namespace Sys2Proof.Machine

/-- Every line of the trace presents an operation whose operands earlier lines bound. -/
def traceScoped : List Kind → List Drive → Bool
  | _, [] => true
  | kinds, d :: rest =>
    match decode d with
    | .ok i => i.scoped kinds && traceScoped (kinds ++ i.op.resultKinds) rest
    | .error _ => false

/-- The kinds of the values bound so far. -/
def State.kinds (s : State) : List Kind := s.bindings.map Value.kind

/-- The invariant of a run: what the environment has still to drive is well scoped over what it has bound. -/
def State.wellScoped (s : State) : Bool := traceScoped s.kinds s.pending

/-- A valid codeword: the four checks and the overall check all pass (spec/41_encoder.md rule R93). -/
def validCodeword (c : Word) : Bool := syn c == (0b0000#4, false)

end Sys2Proof.Machine
end

