-- ==== Sys2Proof/Certificates/Slice0/Obligations.lean ====
section
/-! DEFINITION. The statements for the provers. A next state is written out field by field, so each statement of a result is
at once its frame: the lines still to drive and every earlier binding are unchanged, and there is nothing else (no flag, no
register, no memory: spec/10_state.md rules R20 to R25, spec/20_memory.md rule R40). -/

open Sys2Proof Sys2Proof.Machine

/-! ### Reset and the step -/

/-- The model's choice (log entries 1 and 7), resting on rules R35 and R175: nothing is bound, nothing waits, and a step
from there has nothing to evaluate. -/
def Obligations.ResetHoldsNothing : Prop :=
  State.reset.pending = [] ∧ State.reset.bindings = [] ∧ step State.reset = .refused .nothingDriven

/-- A step takes the next line off the trace and evaluates the operation it presents (rule R70; log entry 1). -/
def Obligations.StepEvaluatesDrivenOperation : Prop :=
  ∀ (s : State) (d : Drive) (rest : List Drive) (i : Instr),
    s.pending = d :: rest → decode d = .ok i →
      step s = exec i { pending := rest, bindings := s.bindings }

/-- Where a step has no operation to evaluate it is refused, and only there does `step` itself refuse (log entries 6, 7). -/
def Obligations.StepRefusesWithoutOperation : Prop :=
  (∀ s : State, s.pending = [] → step s = .refused .nothingDriven) ∧
  (∀ (s : State) (d : Drive) (rest : List Drive) (e : DecodeError),
    s.pending = d :: rest → decode d = .error e → step s = .refused (.undecodable e))

/-- The very next step after `withFetchWord` evaluates the table word's instruction (log entry 3). -/
def Obligations.FetchWordIsEvaluatedNext : Prop :=
  ∀ (s : State) (nbits w : Nat) (i : Instr),
    decodeTableWord nbits w = some i → step (s.withFetchWord nbits w) = exec i s

/-! ### Decoding -/

/-- Operand words written out bit by bit decode to the values they spell. ENC's word is that of rule R57. That a drive
selects the operation is the model's form (log entry 2), and that FLIP's position, CORB's syndrome and parity, LOC's syndrome
and SPREAD's payload occupy the low wires of a 16-bit word with zeros above is the model's layout (log entry 6), not the
spec's. -/
def Obligations.OperandWordsDecode : Prop :=
  decode ⟨.enc, [.word 0b0000000000000101#16]⟩ = .ok (.enc (.lit 5)) ∧
  decode ⟨.flip, [.word 0b0000000001011010#16, .word 0b0000000000000111#16]⟩ =
    .ok (.flip (.lit 0x005A#16) (.lit 7#4)) ∧
  decode ⟨.corb, [.word 0b0000000011011010#16, .word 0b0000000000000111#16, .word 0b0000000000000001#16]⟩ =
    .ok (.corb (.lit 0x00DA#16) (.lit 0b0111#4) (.lit true)) ∧
  decode ⟨.loc, [.word 0b0000000000001111#16]⟩ = .ok (.loc (.lit 0b1111#4)) ∧
  decode ⟨.spread, [.word 0b0000011111111111#16]⟩ = .ok (.spread (.lit 0x7FF#11))

/-- No bit of any operand is lost between an instruction and the drive that presents it. The drive and the layout of its
narrow operands are the model's (log entries 2 and 6). -/
def Obligations.DecodeOfEncodeIsIdentity : Prop :=
  ∀ i : Instr, i.wellFormed = true → decode (encode i) = .ok i

/-- Every drive that decodes is the encoding of what it decodes to, which is well formed: one drive, one meaning. It rests on
the model's choice to refuse a drive with a 1 above a narrow operand's width or with a wrong operand count (log entry 6). -/
def Obligations.EncodeOfDecodeIsIdentity : Prop :=
  ∀ (d : Drive) (i : Instr), decode d = .ok i → i.wellFormed = true ∧ encode i = d

/-- Rule R66: a position outside 0 to 15 is refused, never given a value; a position inside is that position. -/
def Obligations.OutOfRangePositionIsRefused : Prop :=
  ∀ (a : Source) (w : Word) (op : Op), (op = .bitat ∨ op = .flip) →
    (16 ≤ w.toNat → decode ⟨op, [a, .word w]⟩ = .error (.positionOutOfRange w) ∧
      ∀ (s : State) (rest : List Drive), s.pending = ⟨op, [a, .word w]⟩ :: rest →
        step s = .refused (.undecodable (.positionOutOfRange w))) ∧
    (w.toNat < 16 → ∃ k : Position, k.toNat = w.toNat ∧
      (op = .bitat → decode ⟨op, [a, .word w]⟩ = .ok (.bitat (decodeWord a) (.lit k))) ∧
      (op = .flip → decode ⟨op, [a, .word w]⟩ = .ok (.flip (decodeWord a) (.lit k))))

/-! ### Operands -/

/-- Rule R70's two operand forms, for every width of operand; what may stand for what by name is the model's reading
(log entry 5). -/
def Obligations.OperandsAreLiteralsOrBoundNames : Prop :=
  ∀ s : State,
    (∀ w, s.readWord (.lit w) = .ok w) ∧ (∀ p, s.readPayload (.lit p) = .ok p) ∧
    (∀ v, s.readInteger (.lit v) = .ok v) ∧ (∀ k, s.readPosition (.lit k) = .ok k) ∧
    (∀ y, s.readSyndrome (.lit y) = .ok y) ∧ (∀ b, s.readBit (.lit b) = .ok b) ∧
    (∀ x w, s.bindings[x]? = some (.word w) → s.readWord (.name x) = .ok w ∧ s.readInteger (.name x) = .ok w.toNat) ∧
    (∀ x p, s.bindings[x]? = some (.payload p) →
      s.readPayload (.name x) = .ok p ∧ s.readInteger (.name x) = .ok p.toNat) ∧
    (∀ x y, s.bindings[x]? = some (.syndrome y) →
      s.readSyndrome (.name x) = .ok y ∧ s.readPosition (.name x) = .ok y) ∧
    (∀ x b, s.bindings[x]? = some (.bit b) → s.readBit (.name x) = .ok b) ∧
    (∀ x, s.bindings[x]? = none →
      s.readWord (.name x) = .error (.unboundName x) ∧ s.readPayload (.name x) = .error (.unboundName x) ∧
      s.readInteger (.name x) = .error (.unboundName x) ∧ s.readPosition (.name x) = .error (.unboundName x) ∧
      s.readSyndrome (.name x) = .error (.unboundName x) ∧ s.readBit (.name x) = .error (.unboundName x))

/-! ### parity_tree -/

/-- Rule R75: the result of PAR, that it raises nothing, and its corner cases and worked example. -/
def Obligations.ParBindsGroupParity : Prop :=
  (∀ (s : State) (w m : Operand Word) (wv mv : Word), s.readWord w = .ok wv → s.readWord m = .ok mv →
    exec (.par w m) s =
      .next { pending := s.pending
              bindings := s.bindings ++ [.bit (decide (popcount (wv &&& mv) % 2 = 1))] }) ∧
  (∀ w : Word, par w 0x0000#16 = false) ∧ (∀ m : Word, par 0x0000#16 m = false) ∧
  (∀ m : Word, par 0xFFFF#16 m = decide (popcount m % 2 = 1)) ∧
  popcount maskA = 8 ∧ popcount maskB = 8 ∧ popcount maskC = 8 ∧ popcount maskD = 8 ∧ popcount maskAll = 16 ∧
  (∀ m ∈ [maskA, maskB, maskC, maskD, maskAll], par 0xFFFF#16 m = false) ∧
  par 0x00DA#16 0xAAAA#16 = true

/-- Rule R13: the masks are the position sets; a position is in group A, B, C, D exactly when bit 0, 1, 2, 3 of its number
is 1. -/
def Obligations.MasksAreThePositionGroups : Prop :=
  ∀ i < 16,
    maskA.getLsbD i = decide (i ∈ [1, 3, 5, 7, 9, 11, 13, 15]) ∧
    maskB.getLsbD i = decide (i ∈ [2, 3, 6, 7, 10, 11, 14, 15]) ∧
    maskC.getLsbD i = decide (i ∈ [4, 5, 6, 7, 12, 13, 14, 15]) ∧
    maskD.getLsbD i = decide (i ∈ [8, 9, 10, 11, 12, 13, 14, 15]) ∧
    maskAll.getLsbD i = true ∧
    maskData.getLsbD i = decide (i ∈ [3, 5, 6, 7, 9, 10, 11, 12, 13, 14, 15]) ∧
    maskParity.getLsbD i = decide (i ∈ [0, 1, 2, 4, 8]) ∧
    maskA.getLsbD i = i.testBit 0 ∧ maskB.getLsbD i = i.testBit 1 ∧
    maskC.getLsbD i = i.testBit 2 ∧ maskD.getLsbD i = i.testBit 3

/-- Rule R78: the laws of PAR. -/
def Obligations.ParLaws : Prop :=
  (∀ u v m : Word, par (u ^^^ v) m = (par u m ^^ par v m)) ∧
  (∀ u m n : Word, par u (m ^^^ n) = (par u m ^^ par u n)) ∧
  (∀ m : Word, par 0x0000#16 m = false) ∧ (∀ u : Word, par u 0x0000#16 = false) ∧
  (∀ (k : Position) (m : Word), par (1#16 <<< k.toNat) m = m.getLsbD k.toNat) ∧
  (∀ (u m : Word) (k : Position), par (u ^^^ 1#16 <<< k.toNat) m = (par u m ^^ m.getLsbD k.toNat)) ∧
  (∀ (u m : Word) (k : Position), m.getLsbD k.toNat = true → u.getLsbD k.toNat = false →
    par (u ||| (if par u m then 1#16 <<< k.toNat else 0x0000#16)) m = false)

/-! ### hamming_16_11_encoder -/

/-- Rule R85: the result of SPREAD, its corner cases and worked example. -/
def Obligations.SpreadBindsScatteredPayload : Prop :=
  (∀ (s : State) (p : Operand Payload) (pv : Payload), s.readPayload p = .ok pv →
    exec (.spread p) s =
      .next { pending := s.pending
              bindings := s.bindings ++
                [.word (pv.extractLsb' 4 7 ++ 0#1 ++ pv.extractLsb' 1 3 ++ 0#1 ++ pv.extractLsb' 0 1 ++ 0#3)] }) ∧
  (∀ pv : Payload, (∀ i < 11, (spread pv).getLsbD (dataPos.getD i 0) = pv.getLsbD i) ∧
    ∀ k ∈ [0, 1, 2, 4, 8], (spread pv).getLsbD k = false) ∧
  spread 0x000#11 = 0x0000#16 ∧ spread 0x7FF#11 = 0xFEE8#16 ∧ spread 0x001#11 = 0x0008#16 ∧
  spread 0x400#11 = 0x8000#16 ∧ spread 0x005#11 = 0x0048#16

/-- Rule R86: the laws of SPREAD. -/
def Obligations.SpreadLaws : Prop :=
  (∀ p : Payload, spread p &&& maskParity = 0x0000#16) ∧
  (∀ p q : Payload, spread (p ^^^ q) = spread p ^^^ spread q) ∧
  (∀ p q : Payload, spread p = spread q → p = q) ∧
  (∀ p : Payload, popcount (spread p) = popcount p) ∧
  (∀ p : Payload, dec (spread p) = p)

/-- Rule R88: a payload below 2048 is encoded by the six steps, in which each parity bit is the parity of its group as the
word then stands; any other integer raises `InvalidPayload` and no codeword exists; with the corner cases, the worked
example and the wire `invalid_o`. -/
def Obligations.EncBindsCodewordOrFaults : Prop :=
  (∀ (s : State) (v : Operand Nat) (n : Nat), s.readInteger v = .ok n → n < 2048 →
    ∃ w0 w1 w2 w3 w4 w5 : Word,
      w0 = spread (BitVec.ofNat 11 n) ∧
      w1 = w0 ||| (if popcount (w0 &&& 0xAAAA#16) % 2 = 1 then 0x0002#16 else 0x0000#16) ∧
      w2 = w1 ||| (if popcount (w1 &&& 0xCCCC#16) % 2 = 1 then 0x0004#16 else 0x0000#16) ∧
      w3 = w2 ||| (if popcount (w2 &&& 0xF0F0#16) % 2 = 1 then 0x0010#16 else 0x0000#16) ∧
      w4 = w3 ||| (if popcount (w3 &&& 0xFF00#16) % 2 = 1 then 0x0100#16 else 0x0000#16) ∧
      w5 = w4 ||| (if popcount (w4 &&& 0xFFFF#16) % 2 = 1 then 0x0001#16 else 0x0000#16) ∧
      exec (.enc v) s = .next { pending := s.pending, bindings := s.bindings ++ [.word w5] }) ∧
  (∀ (s : State) (v : Operand Nat) (n : Nat), s.readInteger v = .ok n → 2048 ≤ n →
    exec (.enc v) s = .fault (.invalidPayload n)) ∧
  enc 0 = .ok 0x0000#16 ∧ enc 2047 = .ok 0xFFFF#16 ∧ enc 2048 = .error (.invalidPayload 2048) ∧
  enc 65535 = .error (.invalidPayload 65535) ∧ enc 5 = .ok 0x005A#16 ∧
  (∀ payload : BitVec 16, (encoderPorts payload).invalid_o = decide (2048 ≤ payload.toNat))

/-- Rule R89: the five parity steps in any order with step 6 last give the same codeword, which has the parallel form; every
order in which step 6 is not last gives another word for some payload. -/
def Obligations.EncStepOrderAndParallelForm : Prop :=
  (∀ steps : List (Word × Nat), steps.Perm [(maskA, 1), (maskB, 2), (maskC, 4), (maskD, 8), (maskAll, 0)] →
    steps.getLast? = some (maskAll, 0) →
      ∀ p : Payload, steps.foldl (fun w step => setParity w step.1 step.2) (spread p) = encodePayloadBits p) ∧
  (∀ p : Payload, ∃ p1 p2 p3 p4 p0 : Bool,
    p1 = par (spread p) maskA ∧ p2 = par (spread p) maskB ∧ p3 = par (spread p) maskC ∧ p4 = par (spread p) maskD ∧
    p0 = (par (spread p) maskAll ^^ p1 ^^ p2 ^^ p3 ^^ p4) ∧
    encodePayloadBits p =
      spread p ||| bitShift 16 p1 1 ||| bitShift 16 p2 2 ||| bitShift 16 p3 4 ||| bitShift 16 p4 8 ||| bitShift 16 p0 0) ∧
  (∀ steps : List (Word × Nat), steps.Perm [(maskA, 1), (maskB, 2), (maskC, 4), (maskD, 8), (maskAll, 0)] →
    steps.getLast? ≠ some (maskAll, 0) →
      ∃ p : Payload, steps.foldl (fun w step => setParity w step.1 step.2) (spread p) ≠ encodePayloadBits p)

/-- Rule R90: the parity bits as equations in the payload bits. -/
def Obligations.EncParityEquations : Prop :=
  ∀ p : Payload, ∃ d : Nat → Bool, (∀ i, d i = p.getLsbD i) ∧
    (encodePayloadBits p).getLsbD 1 = (d 0 ^^ d 1 ^^ d 3 ^^ d 4 ^^ d 6 ^^ d 8 ^^ d 10) ∧
    (encodePayloadBits p).getLsbD 2 = (d 0 ^^ d 2 ^^ d 3 ^^ d 5 ^^ d 6 ^^ d 9 ^^ d 10) ∧
    (encodePayloadBits p).getLsbD 4 = (d 1 ^^ d 2 ^^ d 3 ^^ d 7 ^^ d 8 ^^ d 9 ^^ d 10) ∧
    (encodePayloadBits p).getLsbD 8 = (d 4 ^^ d 5 ^^ d 6 ^^ d 7 ^^ d 8 ^^ d 9 ^^ d 10) ∧
    (encodePayloadBits p).getLsbD 0 = (d 0 ^^ d 1 ^^ d 2 ^^ d 4 ^^ d 5 ^^ d 7 ^^ d 10)

/-- Rule R91: all five checks pass on every codeword that ENC gives. -/
def Obligations.EncOutputPassesEveryCheck : Prop :=
  ∀ v < 2048, ∃ c : Word, enc v = .ok c ∧ syn c = (0b0000#4, false)

/-- Rule R92: ENC is linear over exclusive or, with the table of basis codewords. -/
def Obligations.EncIsLinear : Prop :=
  (∀ p q : Nat, p < 2048 → q < 2048 → ∃ a b : Word, enc p = .ok a ∧ enc q = .ok b ∧ enc (p ^^^ q) = .ok (a ^^^ b)) ∧
  enc 0 = .ok 0x0000#16 ∧
  (List.range 11).map (fun i => enc (2 ^ i)) =
    [.ok 0x000F#16, .ok 0x0033#16, .ok 0x0055#16, .ok 0x0096#16, .ok 0x0303#16, .ok 0x0505#16, .ok 0x0906#16,
     .ok 0x1111#16, .ok 0x2112#16, .ok 0x4114#16, .ok 0x8117#16]

/-- Rule R93: the words on which the four checks and the overall check pass are exactly the words that ENC gives, one for
each payload. -/
def Obligations.ValidCodewordsAreExactlyEncodings : Prop :=
  (∀ c : Word, syn c = (0b0000#4, false) ↔ ∃ v < 2048, enc v = .ok c) ∧
  (∀ u v : Nat, u < 2048 → v < 2048 → enc u = enc v → u = v)

/-- From rule R94: distinct valid codewords differ in at least 4 positions; their sum is valid; their weights are even. -/
def Obligations.ValidCodewordsDifferInFourPositions : Prop :=
  (∀ u v : Word, validCodeword u = true → validCodeword v = true → validCodeword (u ^^^ v) = true) ∧
  (∀ u : Word, validCodeword u = true → u ≠ 0x0000#16 → 4 ≤ popcount u) ∧
  (∀ u v : Word, validCodeword u = true → validCodeword v = true → u ≠ v → 4 ≤ popcount (u ^^^ v)) ∧
  (∀ u : Word, validCodeword u = true → popcount u % 2 = 0)

/-! ### Bit utilities -/

/-- Rule R100: the result of BITAT, its corner cases and worked examples. -/
def Obligations.BitatBindsSelectedBit : Prop :=
  (∀ (s : State) (w : Operand Word) (k : Operand Position) (wv : Word) (kv : Position),
    s.readWord w = .ok wv → s.readPosition k = .ok kv →
      exec (.bitat w k) s =
        .next { pending := s.pending
                bindings := s.bindings ++ [.bit (decide (wv &&& (1#16 <<< kv.toNat) ≠ 0x0000#16))] }) ∧
  (∀ w : Word, bitAt w 0#4 = w.getLsbD 0 ∧ bitAt w 15#4 = w.msb) ∧
  (∀ k : Position, bitAt 0x0000#16 k = false ∧ bitAt 0xFFFF#16 k = true) ∧
  bitAt 0x005A#16 3#4 = true ∧ bitAt 0x005A#16 2#4 = false

/-- Rule R103: the result of FLIP, its corner cases and worked example. -/
def Obligations.FlipBindsToggledWord : Prop :=
  (∀ (s : State) (c : Operand Word) (k : Operand Position) (cv : Word) (kv : Position),
    s.readWord c = .ok cv → s.readPosition k = .ok kv →
      exec (.flip c k) s =
        .next { pending := s.pending, bindings := s.bindings ++ [.word (cv ^^^ (1#16 <<< kv.toNat))] }) ∧
  (∀ (c : Word) (k : Position), flipBit (flipBit c k) k = c ∧ flipBit c k ≠ c ∧
    ∀ i < 16, (flipBit c k).getLsbD i = (c.getLsbD i ^^ decide (i = k.toNat))) ∧
  flipBit 0x005A#16 7#4 = 0x00DA#16

/-- Rule R104: the laws of FLIP. -/
def Obligations.FlipLaws : Prop :=
  ∀ (c : Word) (j k : Position),
    (∀ i < 16, ((flipBit c k).getLsbD i ≠ c.getLsbD i ↔ i = k.toNat)) ∧
    flipBit (flipBit c k) k = c ∧
    flipBit (flipBit c j) k = flipBit (flipBit c k) j ∧
    par (flipBit c k) maskAll = !(par c maskAll) ∧
    (∀ m : Word, par (flipBit c k) m = (par c m ^^ m.getLsbD k.toNat)) ∧
    syn (flipBit c k) = ((syn c).1 ^^^ k, !(syn c).2) ∧
    (k.toNat ∈ [0, 1, 2, 4, 8] → dec (flipBit c k) = dec c) ∧
    (∀ i < 11, dataPos.getD i 0 = k.toNat → dec (flipBit c k) = dec c ^^^ (1#11 <<< i))

/-! ### Syndrome and corrector -/

/-- Rule R110: the results of SYN, bit by bit over the position sets, its corner cases and worked example, and
the signals they appear on. -/
def Obligations.SynBindsCheckOutcomes : Prop :=
  (∀ (s : State) (c : Operand Word) (cv : Word), s.readWord c = .ok cv →
    ∃ (y : Syndrome) (bit : Nat → Bool), (∀ i, bit i = cv.getLsbD i) ∧
      y.getLsbD 0 = (bit 1 ^^ bit 3 ^^ bit 5 ^^ bit 7 ^^ bit 9 ^^ bit 11 ^^ bit 13 ^^ bit 15) ∧
      y.getLsbD 1 = (bit 2 ^^ bit 3 ^^ bit 6 ^^ bit 7 ^^ bit 10 ^^ bit 11 ^^ bit 14 ^^ bit 15) ∧
      y.getLsbD 2 = (bit 4 ^^ bit 5 ^^ bit 6 ^^ bit 7 ^^ bit 12 ^^ bit 13 ^^ bit 14 ^^ bit 15) ∧
      y.getLsbD 3 = (bit 8 ^^ bit 9 ^^ bit 10 ^^ bit 11 ^^ bit 12 ^^ bit 13 ^^ bit 14 ^^ bit 15) ∧
      exec (.syn c) s =
        .next { pending := s.pending
                bindings := s.bindings ++ [.syndrome y, .bit (decide (popcount cv % 2 = 1))] }) ∧
  syn 0x0000#16 = (0b0000#4, false) ∧ syn 0xFFFF#16 = (0b0000#4, false) ∧ syn 0x0001#16 = (0b0000#4, true) ∧
  syn 0x8000#16 = (0b1111#4, true) ∧ syn 0x00DA#16 = (0b0111#4, true) ∧
  (∀ c : Word, ((decoderSyndromePorts c).syndrome_o, (decoderSyndromePorts c).parity_all_o) = syn c)

/-- Rule R111: the laws of SYN. -/
def Obligations.SynLaws : Prop :=
  (∀ u v : Word, syn (u ^^^ v) = ((syn u).1 ^^^ (syn v).1, (syn u).2 ^^ (syn v).2)) ∧
  (∀ v < 2048, ∃ c : Word, enc v = .ok c ∧ syn c = (0b0000#4, false)) ∧
  (∀ k : Position, syn (1#16 <<< k.toNat) = (k, true)) ∧
  (∀ v e : Word, validCodeword v = true → syn (v ^^^ e) = syn e) ∧
  (∀ (v : Word) (ks : List Position), validCodeword v = true → ks.Nodup →
    syn (ks.foldl flipBit v) = (ks.foldl (· ^^^ ·) 0b0000#4, decide (ks.length % 2 = 1)))

/-- Rule R62: the signature of a position is its number, and is the syndrome of a lone error there. -/
def Obligations.PositionSignatureIsItsNumber : Prop :=
  (∀ k : Position,
    BitVec.ofBool (maskD.getLsbD k.toNat) ++ BitVec.ofBool (maskC.getLsbD k.toNat) ++
      BitVec.ofBool (maskB.getLsbD k.toNat) ++ BitVec.ofBool (maskA.getLsbD k.toNat) = k) ∧
  (∀ (v w : Word) (k : Position), validCodeword v = true → (∀ i < 16, (w.getLsbD i ≠ v.getLsbD i ↔ i = k.toNat)) →
    (syn w).1 = k)

/-- Rules R114 and R115: LOC leaves exactly the candidate whose number the syndrome spells. -/
def Obligations.LocBindsOneCandidate : Prop :=
  (∀ (s : State) (y : Operand Syndrome) (yv : Syndrome), s.readSyndrome y = .ok yv →
    exec (.loc y) s =
      .next { pending := s.pending, bindings := s.bindings ++ [.word (1#16 <<< yv.toNat)] }) ∧
  (∀ y : Syndrome,
    loc y = 0xFFFF#16 &&& (if y.getLsbD 0 then maskA else ~~~maskA) &&& (if y.getLsbD 1 then maskB else ~~~maskB) &&&
      (if y.getLsbD 2 then maskC else ~~~maskC) &&& (if y.getLsbD 3 then maskD else ~~~maskD)) ∧
  (∀ y : Syndrome, popcount (loc y) = 1) ∧
  (List.range 16).map (fun n => loc (BitVec.ofNat 4 n)) =
    [0x0001#16, 0x0002#16, 0x0004#16, 0x0008#16, 0x0010#16, 0x0020#16, 0x0040#16, 0x0080#16,
     0x0100#16, 0x0200#16, 0x0400#16, 0x0800#16, 0x1000#16, 0x2000#16, 0x4000#16, 0x8000#16]

/-- Rule R117: the results of CORB for every word, syndrome and overall parity, and the port signals. -/
def Obligations.CorbBindsCorrection : Prop :=
  (∀ (s : State) (c : Operand Word) (y : Operand Syndrome) (q : Operand Bool) (cv : Word) (yv : Syndrome) (qv : Bool),
    s.readWord c = .ok cv → s.readSyndrome y = .ok yv → s.readBit q = .ok qv →
      exec (.corb c y q) s =
        .next { pending := s.pending
                bindings := s.bindings ++
                  [.word (cv ^^^ (if qv then 1#16 <<< yv.toNat else 0x0000#16)),
                   .status (if qv then .corrected yv else .noError)] }) ∧
  (∀ (c : Word) (y : Syndrome), corb c y false = (c, .noError) ∧ corb c y true = (c ^^^ loc y, .corrected y) ∧
    (corb c 0b0000#4 true).1 = flipBit c 0#4) ∧
  (∀ (c : Word) (y : Syndrome) (q : Bool),
    (correctorPorts c y q).codeword_o = (corb c y q).1 ∧ (correctorPorts c y q).err_o = q ∧
    (correctorPorts c y q).pos_o = (if q then y else 0b0000#4)) ∧
  corb 0x00DA#16 0b0111#4 true = (0x005A#16, .corrected 7#4)

/-- Rule R119: COR is CORB after SYN on the same word; its corner cases in short and its worked example. -/
def Obligations.CorBindsCorbAfterSyn : Prop :=
  (∀ (s : State) (c : Operand Word) (cv : Word), s.readWord c = .ok cv →
    ∃ (y : Syndrome) (q : Bool) (c2 : Word) (st : ErrorStatus), syn cv = (y, q) ∧ corb cv y q = (c2, st) ∧
      exec (.cor c) s = .next { pending := s.pending, bindings := s.bindings ++ [.word c2, .status st] }) ∧
  (∀ v : Word, validCodeword v = true → cor v = (v, .noError) ∧ ∀ k, cor (flipBit v k) = (v, .corrected k)) ∧
  (∀ c : Word, par c maskAll = false → cor c = (c, .noError)) ∧
  (∀ c : Word, par c maskAll = true → popcount ((cor c).1 ^^^ c) = 1) ∧
  cor 0x00DA#16 = (0x005A#16, .corrected 7#4)

/-- Rule R120: what COR's result always satisfies. -/
def Obligations.CorAlwaysRestoresParity : Prop :=
  ∀ (c c2 : Word) (st : ErrorStatus), cor c = (c2, st) →
    par c2 maskAll = false ∧
    (st = .noError ↔ par c maskAll = false) ∧ (st = .noError → c2 = c) ∧
    ((∃ k, st = .corrected k) ↔ par c maskAll = true) ∧
    (∀ k, st = .corrected k → k = (syn c).1 ∧ c2 = flipBit c k ∧ syn c2 = (0b0000#4, false)) ∧
    popcount (c2 ^^^ c) ≤ 1

/-- Rule R124, the core guarantee: every single-bit error on every codeword is repaired and located. -/
def Obligations.CorRepairsEverySingleError : Prop :=
  ∀ (v : Nat) (k : Position), v < 2048 → ∃ c : Word, enc v = .ok c ∧
    cor (flipBit c k) = (c, .corrected k) ∧ dec c = BitVec.ofNat 11 v ∧ (dec c).toNat = v ∧
    syn (flipBit c k) = (k, true) ∧
    (k.toNat ∈ [1, 2, 4, 8] → popcount (syn (flipBit c k)).1 = 1) ∧
    (k = 0#4 → (syn (flipBit c k)).1 = 0b0000#4)

/-- Rule R125: a codeword without error comes back unchanged; two errors pass with `NoError`, the word unchanged, the
non-zero syndrome ignored, and the payload bits at the data positions among them inverted. -/
def Obligations.CorPassesZeroAndTwoErrors : Prop :=
  ∀ v < 2048, ∃ c : Word, enc v = .ok c ∧ cor c = (c, .noError) ∧
    ∀ j k : Position, j ≠ k →
      cor (flipBit (flipBit c j) k) = (flipBit (flipBit c j) k, .noError) ∧
      (syn (flipBit (flipBit c j) k)).1 = j ^^^ k ∧ j ^^^ k ≠ 0b0000#4 ∧
      ∀ i < 11, (dec (flipBit (flipBit c j) k)).getLsbD i =
        (v.testBit i ^^ decide (dataPos.getD i 0 = j.toNat ∨ dataPos.getD i 0 = k.toNat))

/-- Rule R126 for any number of errors at distinct positions: an odd number of three or more is miscorrected to another
valid codeword, an even number is passed on; three errors land exactly four positions away. -/
def Obligations.CorOnThreeOrMoreErrors : Prop :=
  ∀ (v : Word) (ks : List Position) (e : Position), validCodeword v = true → ks.Nodup → 3 ≤ ks.length →
    e = ks.foldl (· ^^^ ·) 0b0000#4 →
    (ks.length % 2 = 1 →
      cor (ks.foldl flipBit v) = (flipBit (ks.foldl flipBit v) e, .corrected e) ∧
      validCodeword (flipBit (ks.foldl flipBit v) e) = true ∧ flipBit (ks.foldl flipBit v) e ≠ v) ∧
    (ks.length % 2 = 0 → cor (ks.foldl flipBit v) = (ks.foldl flipBit v, .noError)) ∧
    (ks.length = 3 → e ∉ ks ∧ popcount (flipBit (ks.foldl flipBit v) e ^^^ v) = 4)

/-- Rule R127: correcting again changes nothing and reports `NoError`; the status is not idempotent on odd parity. -/
def Obligations.CorIsIdempotentOnWords : Prop :=
  (∀ c : Word, par c maskAll = false → cor c = (c, .noError) ∧ cor (cor c).1 = (c, .noError)) ∧
  (∀ (c c2 : Word) (st : ErrorStatus), cor c = (c2, st) → cor c2 = (c2, .noError)) ∧
  (∀ c : Word, par c maskAll = true → ∃ k, (cor c).2 = .corrected k ∧ (cor (cor c).1).2 = .noError)

/-! ### Decoder and receive path -/

/-- Rule R135: the result of DEC, its corner cases and worked example, and the signal it appears on. -/
def Obligations.DecBindsGatheredPayload : Prop :=
  (∀ (s : State) (c : Operand Word) (cv : Word), s.readWord c = .ok cv →
    exec (.dec c) s =
      .next { pending := s.pending
              bindings := s.bindings ++ [.payload (cv.extractLsb' 9 7 ++ cv.extractLsb' 5 3 ++ cv.extractLsb' 3 1)] }) ∧
  (∀ c : Word, ∀ i < 11, (dec c).getLsbD i = c.getLsbD (dataPos.getD i 0)) ∧
  dec 0x0000#16 = 0x000#11 ∧ dec 0xFFFF#16 = 0x7FF#11 ∧ dec 0x0117#16 = 0x000#11 ∧ dec 0xFEE8#16 = 0x7FF#11 ∧
  dec 0x005A#16 = 0x005#11 ∧
  (∀ c : Word, (decoderSyndromePorts c).payload_o = dec c)

/-- Rule R136: the laws of DEC. -/
def Obligations.DecLaws : Prop :=
  (∀ p : Payload, dec (spread p) = p) ∧
  (∀ c : Word, dec c = dec (c &&& maskData)) ∧
  (∀ c e : Word, e &&& maskData = 0x0000#16 → dec (c ^^^ e) = dec c) ∧
  (∀ u v : Word, dec (u ^^^ v) = dec u ^^^ dec v) ∧
  (∀ p : Payload, ∃ l : List Word, l.Nodup ∧ l.length = 32 ∧ (∀ c, c ∈ l ↔ dec c = p) ∧
    l.countP validCodeword = 1) ∧
  (∀ c : Word, spread (dec c) = c &&& maskData)

/-- Rule R138: decoding an encoded payload gives it back. -/
def Obligations.DecodeOfEncodingIsPayload : Prop :=
  ∀ v < 2048, ∃ c : Word, enc v = .ok c ∧ dec c = BitVec.ofNat 11 v ∧ (dec c).toNat = v

/-- Rule R140: RECV is COR, then DEC of the corrected word. -/
def Obligations.RecvBindsCorThenDec : Prop :=
  (∀ (s : State) (c : Operand Word) (cv : Word), s.readWord c = .ok cv →
    ∃ (c2 : Word) (st : ErrorStatus), cor cv = (c2, st) ∧
      exec (.recv c) s =
        .next { pending := s.pending, bindings := s.bindings ++ [.word c2, .payload (dec c2), .status st] }) ∧
  (∀ c : Word, par c maskAll = false → recv c = (c, dec c, .noError)) ∧
  recv 0x00DA#16 = (0x005A#16, 0x005#11, .corrected 7#4)

/-- Rule R141: the guarantees of the receive path. -/
def Obligations.RecvRecoversPayload : Prop :=
  ∀ (v : Nat) (k : Position), v < 2048 → ∃ c : Word, enc v = .ok c ∧
    recv c = (c, BitVec.ofNat 11 v, .noError) ∧ recv (flipBit c k) = (c, BitVec.ofNat 11 v, .corrected k)

/-- The source's data flow as a run of the machine: encode, one bit flipped in the channel, receive. From any state, three
steps recover the payload that was sent and report the position. -/
def Obligations.TransferSurvivesOneFlippedBit : Prop :=
  ∀ (s : State) (rest : List Drive) (v : Nat) (k : Position), v < 2048 →
    s.pending =
      encode (.enc (.lit v)) :: encode (.flip (.name s.bindings.length) (.lit k)) ::
        encode (.recv (.name (s.bindings.length + 1))) :: rest →
    ∃ c : Word, enc v = .ok c ∧
      core.run 3 s =
        .next { pending := rest
                bindings := s.bindings ++
                  [.word c, .word (flipBit c k), .word c, .payload (BitVec.ofNat 11 v), .status (.corrected k)] }

/-- Rule R71 for COR and RECV, as runs: the expansion binds, last, the results the composite binds. -/
def Obligations.CompositesEqualTheirExpansions : Prop :=
  ∀ (s : State) (rest : List Drive) (c : Word),
    ∃ (y : Syndrome) (q : Bool) (c2 : Word) (p : Payload) (st : ErrorStatus),
      exec (.cor (.lit c)) s = .next { pending := s.pending, bindings := s.bindings ++ [.word c2, .status st] } ∧
      exec (.recv (.lit c)) s =
        .next { pending := s.pending, bindings := s.bindings ++ [.word c2, .payload p, .status st] } ∧
      core.run 2
          { pending := encode (.syn (.lit c)) ::
              encode (.corb (.lit c) (.name s.bindings.length) (.name (s.bindings.length + 1))) :: rest
            bindings := s.bindings } =
        .next { pending := rest, bindings := s.bindings ++ [.syndrome y, .bit q, .word c2, .status st] } ∧
      core.run 2
          { pending := encode (.cor (.lit c)) :: encode (.dec (.name s.bindings.length)) :: rest
            bindings := s.bindings } =
        .next { pending := rest, bindings := s.bindings ++ [.word c2, .status st, .payload p] }

/-! ### Faults, refusals, independence, and the invariant -/

/-- Rule R153: ENC faults exactly on an operand of 2048 or more, and no other operation faults. -/
def Obligations.OnlyEncFaults : Prop :=
  ∀ (i : Instr) (s : State) (f : Fault),
    exec i s = .fault f ↔
      ∃ (v : Operand Nat) (n : Nat), i = .enc v ∧ s.readInteger v = .ok n ∧ 2048 ≤ n ∧ f = .invalidPayload n

/-- A faulting line ends the trace, whatever lines follow it and however many steps are asked for (rules R70, R155). -/
def Obligations.FaultEndsTheTrace : Prop :=
  ∀ (s : State) (v : Operand Nat) (n k : Nat) (rest : List Drive),
    (Instr.enc v).wellFormed = true → s.pending = encode (.enc v) :: rest → s.readInteger v = .ok n → 2048 ≤ n →
      core.run (k + 1) s = .fault (.invalidPayload n)

/-- Every operation whose operands can be read completes with results of its kinds and leaves everything else as it was,
but for ENC on an operand of 2048 or more, which faults: there is no third outcome (rule R12). -/
def Obligations.ScopedOperationCompletes : Prop :=
  ∀ (i : Instr) (s : State), i.scoped s.kinds = true →
    (∃ results : List Value, results.map Value.kind = i.op.resultKinds ∧
      exec i s = .next { pending := s.pending, bindings := s.bindings ++ results }) ∨
    (∃ (v : Operand Nat) (n : Nat), i = .enc v ∧ s.readInteger v = .ok n ∧ 2048 ≤ n ∧
      exec i s = .fault (.invalidPayload n))

/-- The model refuses an operation exactly when an operand is an unbound name or names a result of another kind
(log entry 5). -/
def Obligations.RefusedExactlyWhenOperandUnreadable : Prop :=
  ∀ (i : Instr) (s : State),
    ((∃ r, exec i s = .refused r) ↔ i.scoped s.kinds = false) ∧
    (∀ r, exec i s = .refused r → ∃ x ∈ i.names, r = .unboundName x ∨ r = .operandKind x)

/-- The frame of every operation: the lines still to drive and every binding stay, and the results stand after them. -/
def Obligations.EarlierBindingsNeverChange : Prop :=
  ∀ (i : Instr) (s s' : State), exec i s = .next s' →
    s'.pending = s.pending ∧
    s'.bindings.length = s.bindings.length + i.op.resultKinds.length ∧
    ∀ (x : Nat) (v : Value), s.bindings[x]? = some v → s'.bindings[x]? = some v

/-- No hidden state (rules R20, R25, R48): in two states that agree on the names an operation reads, it has the same
outcome and gives the same results, whatever else was evaluated before. -/
def Obligations.ResultsDependOnOperandsOnly : Prop :=
  ∀ (i : Instr) (s t : State), (∀ x ∈ i.names, s.bindings[x]? = t.bindings[x]?) →
    (∀ s' : State, exec i s = .next s' → ∃ results : List Value,
      s' = { pending := s.pending, bindings := s.bindings ++ results } ∧
      exec i t = .next { pending := t.pending, bindings := t.bindings ++ results }) ∧
    (∀ f, exec i s = .fault f ↔ exec i t = .fault f) ∧
    (∀ r, exec i s = .refused r ↔ exec i t = .refused r)

/-- The invariant holds at reset. -/
def Obligations.ResetIsWellScoped : Prop := State.reset.wellScoped = true

/-- Every step keeps the trace well scoped over the names bound. -/
def Obligations.StepKeepsWellScoped : Prop :=
  ∀ s s' : State, s.wellScoped = true → step s = .next s' → s'.wellScoped = true

/-- A well-scoped trace never meets a refusal before its end: each step completes, or is the fault of ENC (rule R12). -/
def Obligations.WellScopedTraceNeverStuck : Prop :=
  ∀ (s : State) (k : Nat), s.wellScoped = true → k ≤ s.pending.length →
    (∃ s', core.run k s = .next s' ∧ s'.wellScoped = true ∧ s'.pending = s.pending.drop k) ∨
    (∃ n, 2048 ≤ n ∧ core.run k s = .fault (.invalidPayload n))

/-! ### The port level -/

/-- The gate tree computes PAR for every mask: the shape of the tree cannot be observed (rule R77). -/
def Obligations.ParityTreePortComputesPar : Prop :=
  ∀ mask word : Word, parityTreePort mask word = par word mask

/-- The encoder's wiring computes ENC for a payload port of every width: the codeword when `invalid_o` is 0, and `invalid_o`
is 1 exactly where ENC faults. Nothing is said of `codeword_o` there (U2). -/
def Obligations.EncoderPortsComputeEnc : Prop :=
  ∀ (width : Nat) (payload : BitVec width),
    ((encoderPorts payload).invalid_o = true ↔ 2048 ≤ payload.toNat) ∧
    ((encoderPorts payload).invalid_o = false → enc payload.toNat = .ok (encoderPorts payload).codeword_o) ∧
    ((encoderPorts payload).invalid_o = true → enc payload.toNat = .error (.invalidPayload payload.toNat))

/-- The receive path as wired blocks (rule R142) computes RECV, and its payload is DEC of the word with DEC of the flipped
bit added. -/
def Obligations.ReceivePathPortsComputeRecv : Prop :=
  ∀ c : Word,
    (receivePathPorts c).codeword_o = (recv c).1 ∧ (receivePathPorts c).payload_o = (recv c).2.1 ∧
    (receivePathPorts c).err_o = (recv c).2.2.err ∧ (receivePathPorts c).pos_o = (recv c).2.2.pos ∧
    (receivePathPorts c).payload_o = dec c ^^^ dec (if (syn c).2 then 1#16 <<< (syn c).1.toNat else 0x0000#16)

/-- The 5 bits of a status (rule R58): the two forms' patterns, read back, the patterns that are never produced,
and the corrector's `{err_o, pos_o}`. -/
def Obligations.StatusBitsRoundTrip : Prop :=
  ErrorStatus.noError.bits = 0b00000#5 ∧
  (∀ k : Position, (ErrorStatus.corrected k).bits = 1#1 ++ k) ∧
  (∀ st : ErrorStatus, ErrorStatus.ofBits st.bits = some st) ∧
  (∀ (b : BitVec 5) (st : ErrorStatus), ErrorStatus.ofBits b = some st ↔ st.bits = b) ∧
  (∀ b : BitVec 5, b.getLsbD 4 = false → b ≠ 0b00000#5 → ∀ st : ErrorStatus, st.bits ≠ b) ∧
  (∀ (c : Word) (y : Syndrome) (q : Bool),
    BitVec.ofBool (correctorPorts c y q).err_o ++ (correctorPorts c y q).pos_o = (corb c y q).2.bits)

/-! ### The CodeBlock record -/

/-- Rule R33: a CodeBlock just created from a payload holds its codeword twice and decodes to it; creation fails with
`InvalidPayload` as ENC does. -/
def Obligations.CodeBlockCreation : Prop :=
  (∀ v < 2048, ∃ b : CodeBlock, CodeBlock.create v = .ok b ∧ enc v = .ok b.codeword ∧ b.snapshot = b.codeword ∧
    b.payload = BitVec.ofNat 11 v ∧ dec b.codeword = b.payload) ∧
  (∀ v, 2048 ≤ v → CodeBlock.create v = .error (.invalidPayload v))

/-- Rule R34: fault injection and correction write the codeword only, and one of each restores the created block. -/
def Obligations.CodeBlockLifecycle : Prop :=
  (∀ (b : CodeBlock) (k : Position), (b.injectFault k).codeword = flipBit b.codeword k ∧
    (b.injectFault k).snapshot = b.snapshot ∧ (b.injectFault k).payload = b.payload) ∧
  (∀ b : CodeBlock, b.fix.1.codeword = (cor b.codeword).1 ∧ b.fix.2 = (cor b.codeword).2 ∧
    b.fix.1.snapshot = b.snapshot ∧ b.fix.1.payload = b.payload) ∧
  (∀ (v : Nat) (b : CodeBlock) (k : Position), CodeBlock.create v = .ok b →
    (b.injectFault k).fix = (b, .corrected k) ∧ (b.injectFault k).fix.1.codeword = (b.injectFault k).fix.1.snapshot)
end

