-- ==== Sys2Proof/Laws/Parity.lean ====
section
/-! SUPPORT. Parity as an exclusive or of bits (spec/00_scope.md rule R9: "equally the exclusive or of all bits"). -/

namespace Sys2Proof.Machine

/-- The exclusive or of the bits of `w` below bit `n`. -/
def xorBelow {width : Nat} (w : BitVec width) : Nat → Bool
  | 0 => false
  | n + 1 => xorBelow w n ^^ w.getLsbD n

theorem popcountBelow_mod_two {width : Nat} (w : BitVec width) (n : Nat) :
    popcountBelow w n % 2 = (xorBelow w n).toNat := by
  induction n with
  | zero => rfl
  | succ n ih =>
    rw [popcountBelow, xorBelow, Nat.add_mod, ih]
    cases xorBelow w n <;> cases w.getLsbD n <;> rfl

/-- `xor_reduce` is the exclusive or of all bits. -/
theorem xorReduce_eq_xorBelow {width : Nat} (w : BitVec width) : xorReduce w = xorBelow w width := by
  rw [xorReduce, popcount, popcountBelow_mod_two]
  cases xorBelow w width <;> rfl

theorem xorBelow_xor {width : Nat} (u v : BitVec width) (n : Nat) :
    xorBelow (u ^^^ v) n = (xorBelow u n ^^ xorBelow v n) := by
  induction n with
  | zero => rfl
  | succ n ih =>
    simp only [xorBelow, ih, BitVec.getLsbD_xor]
    cases xorBelow u n <;> cases xorBelow v n <;> cases u.getLsbD n <;> cases v.getLsbD n <;> rfl

/-- PAR as the exclusive or of the sixteen masked bits. -/
theorem par_eq_xor_of_bits (w m : Word) :
    par w m =
      ((w.getLsbD 0 && m.getLsbD 0) ^^ (w.getLsbD 1 && m.getLsbD 1) ^^ (w.getLsbD 2 && m.getLsbD 2) ^^
        (w.getLsbD 3 && m.getLsbD 3) ^^ (w.getLsbD 4 && m.getLsbD 4) ^^ (w.getLsbD 5 && m.getLsbD 5) ^^
        (w.getLsbD 6 && m.getLsbD 6) ^^ (w.getLsbD 7 && m.getLsbD 7) ^^ (w.getLsbD 8 && m.getLsbD 8) ^^
        (w.getLsbD 9 && m.getLsbD 9) ^^ (w.getLsbD 10 && m.getLsbD 10) ^^ (w.getLsbD 11 && m.getLsbD 11) ^^
        (w.getLsbD 12 && m.getLsbD 12) ^^ (w.getLsbD 13 && m.getLsbD 13) ^^ (w.getLsbD 14 && m.getLsbD 14) ^^
        (w.getLsbD 15 && m.getLsbD 15)) := by
  simp only [par, xorReduce_eq_xorBelow, xorBelow, BitVec.getLsbD_and, Bool.false_xor, Bool.xor_assoc]

theorem oneHot_getLsbD (k : Position) (i : Nat) (hi : i < 16) : (oneHot k).getLsbD i = decide (i = k.toNat) := by
  simp only [oneHot, BitVec.getLsbD_shiftLeft, BitVec.getLsbD_one]
  rw [Bool.eq_iff_iff]
  simp only [Bool.and_eq_true, decide_eq_true_eq, Bool.not_eq_true', decide_eq_false_iff_not]
  omega

theorem flipBit_getLsbD (c : Word) (k : Position) (i : Nat) (hi : i < 16) :
    (flipBit c k).getLsbD i = (c.getLsbD i ^^ decide (i = k.toNat)) := by
  rw [flipBit, BitVec.getLsbD_xor, oneHot_getLsbD k i hi]

end Sys2Proof.Machine
end

