-- ==== Sys2Proof/Laws/Codec.lean ====
section
/-! SUPPORT. The words of the codec bit by bit. -/

namespace Sys2Proof.Machine

theorem bitShift_getLsbD (width : Nat) (b : Bool) (i j : Nat) :
    (bitShift width b i).getLsbD j = (decide (j < width) && decide (j = i) && b) := by
  simp only [bitShift, BitVec.getLsbD_shiftLeft, BitVec.getLsbD_setWidth, BitVec.getLsbD_ofBool]
  rw [Bool.eq_iff_iff]
  simp only [Bool.and_eq_true, decide_eq_true_eq, Bool.not_eq_true', decide_eq_false_iff_not]
  constructor
  · rintro ⟨⟨h, h1⟩, h2, h3, h4⟩
    exact ⟨⟨h, by omega⟩, h4⟩
  · rintro ⟨⟨h, rfl⟩, h4⟩
    exact ⟨⟨h, by omega⟩, by omega, by omega, h4⟩

/-- SPREAD as the concatenation of rule R60, one bit at a time. -/
theorem spread_getLsbD (p : Payload) (j : Nat) :
    (spread p).getLsbD j =
      (decide (j = 3) && p.getLsbD 0 || decide (j = 5) && p.getLsbD 1 || decide (j = 6) && p.getLsbD 2 ||
        decide (j = 7) && p.getLsbD 3 || decide (j = 9) && p.getLsbD 4 || decide (j = 10) && p.getLsbD 5 ||
        decide (j = 11) && p.getLsbD 6 || decide (j = 12) && p.getLsbD 7 || decide (j = 13) && p.getLsbD 8 ||
        decide (j = 14) && p.getLsbD 9 || decide (j = 15) && p.getLsbD 10) := by
  by_cases hj : j < 16
  · simp only [spread, scatter, dataPos, BitVec.getLsbD_or, bitShift_getLsbD, BitVec.getLsbD_zero, hj, decide_true,
      Bool.true_and, Bool.or_false, Bool.or_assoc]
  · simp [BitVec.getLsbD_of_ge _ _ (Nat.le_of_not_lt hj), show ∀ n < 16, j ≠ n from fun n hn => by omega]

/-- DEC one bit at a time (rule R61). -/
theorem dec_getLsbD (c : Word) (i : Nat) :
    (dec c).getLsbD i =
      (decide (i = 0) && c.getLsbD 3 || decide (i = 1) && c.getLsbD 5 || decide (i = 2) && c.getLsbD 6 ||
        decide (i = 3) && c.getLsbD 7 || decide (i = 4) && c.getLsbD 9 || decide (i = 5) && c.getLsbD 10 ||
        decide (i = 6) && c.getLsbD 11 || decide (i = 7) && c.getLsbD 12 || decide (i = 8) && c.getLsbD 13 ||
        decide (i = 9) && c.getLsbD 14 || decide (i = 10) && c.getLsbD 15) := by
  by_cases hi : i < 11
  · simp only [dec, gather, dataPos, BitVec.getLsbD_or, bitShift_getLsbD, BitVec.getLsbD_zero, hi, decide_true,
      Bool.true_and, Bool.or_false, Bool.or_assoc]
  · simp [BitVec.getLsbD_of_ge _ _ (Nat.le_of_not_lt hi), show ∀ n < 11, i ≠ n from fun n hn => by omega]

/-- Setting a parity position touches that position only. -/
theorem setParity_getLsbD (w group : Word) (position j : Nat) (hj : j < 16) :
    (setParity w group position).getLsbD j = (w.getLsbD j || decide (j = position) && par w group) := by
  simp only [setParity, BitVec.getLsbD_or, bitShift_getLsbD, hj, decide_true, Bool.true_and]

/-- The syndrome bits are the four group parities (rule R59). -/
theorem syn_fst_getLsbD (c : Word) :
    (syn c).1.getLsbD 0 = par c maskA ∧ (syn c).1.getLsbD 1 = par c maskB ∧ (syn c).1.getLsbD 2 = par c maskC ∧
      (syn c).1.getLsbD 3 = par c maskD := by
  cases ha : par c maskA <;> cases hb : par c maskB <;> cases hc : par c maskC <;> cases hd : par c maskD <;>
    simp only [syn, ha, hb, hc, hd] <;> decide

theorem syn_snd (c : Word) : (syn c).2 = par c maskAll := rfl

/-- ENC's range check, read from its two outcomes (rules R88, R150). -/
theorem enc_eq_ok_iff (v : Nat) (c : Word) :
    enc v = .ok c ↔ v < 2048 ∧ c = encodePayloadBits (BitVec.ofNat 11 v) := by
  unfold enc Config.payloadBound
  split
  · simp only [reduceCtorEq, false_iff]
    omega
  · simp only [Except.ok.injEq, eq_comm (a := c), iff_and_self]
    omega

theorem enc_eq_error_iff (v : Nat) (f : Fault) : enc v = .error f ↔ 2048 ≤ v ∧ f = .invalidPayload v := by
  unfold enc Config.payloadBound
  split
  · simp only [Except.error.injEq, eq_comm (a := f), iff_and_self]
    omega
  · simp only [reduceCtorEq, false_iff]
    omega

end Sys2Proof.Machine
end

