-- ==== Sys2Proof/Laws/State.lean ====
section
/-! SUPPORT. One lemma per field per update of `State`, and what the two shared ends of an operation can do. -/

namespace Sys2Proof.Machine

@[simp] theorem State.reset_pending : State.reset.pending = [] := rfl
@[simp] theorem State.reset_bindings : State.reset.bindings = [] := rfl
@[simp] theorem State.ofTrace_pending (lines : List Drive) : (State.ofTrace lines).pending = lines := rfl
@[simp] theorem State.ofTrace_bindings (lines : List Drive) : (State.ofTrace lines).bindings = [] := rfl
@[simp] theorem State.bind_pending (s : State) (vs : List Value) : (s.bind vs).pending = s.pending := rfl
@[simp] theorem State.bind_bindings (s : State) (vs : List Value) : (s.bind vs).bindings = s.bindings ++ vs := rfl
@[simp] theorem State.withPending_pending (s : State) (rest : List Drive) : (s.withPending rest).pending = rest := rfl
@[simp] theorem State.withPending_bindings (s : State) (rest : List Drive) :
    (s.withPending rest).bindings = s.bindings := rfl
@[simp] theorem State.withFetchWord_pending (s : State) (nbits w : Nat) :
    (s.withFetchWord nbits w).pending = tableDrive nbits w :: s.pending := rfl
@[simp] theorem State.withFetchWord_bindings (s : State) (nbits w : Nat) :
    (s.withFetchWord nbits w).bindings = s.bindings := rfl

/-- `finish` completes, and does nothing but bind the results. -/
@[simp] theorem finish_eq_next_iff (s s' : State) (vs : List Value) : finish s vs = .next s' ↔ s' = s.bind vs := by
  simp [finish, eq_comm]

@[simp] theorem finish_ne_fault (s : State) (vs : List Value) (f : Fault) : finish s vs ≠ .fault f := by
  simp [finish]

@[simp] theorem finish_ne_refused (s : State) (vs : List Value) (r : Refusal) : finish s vs ≠ .refused r := by
  simp [finish]

/-- Raising the fault leaves no next state and is no refusal (rule R156). -/
@[simp] theorem raiseInvalidPayload_ne_next (v : Nat) (s : State) : raiseInvalidPayload v ≠ .next s := by
  simp [raiseInvalidPayload]

@[simp] theorem raiseInvalidPayload_ne_refused (v : Nat) (r : Refusal) : raiseInvalidPayload v ≠ .refused r := by
  simp [raiseInvalidPayload]

@[simp] theorem raiseInvalidPayload_eq_fault_iff (v : Nat) (f : Fault) :
    raiseInvalidPayload v = .fault f ↔ f = .invalidPayload v := by
  simp [raiseInvalidPayload, eq_comm]

end Sys2Proof.Machine
end

