-- ==== Sys2Proof/Laws/Operands.lean ====
section
/-! SUPPORT. What reading an operand can do, said once: later proofs cite these instead of unfolding the readers. -/

namespace Sys2Proof.Machine

@[simp] theorem supply_ok {α : Type} (v : α) (use : α → Result) : supply (.ok v) use = use v := rfl
@[simp] theorem supply_error {α : Type} (r : Refusal) (use : α → Result) :
    supply (α := α) (.error r) use = .refused r := rfl

/-- An operand is supplied to an operation that completes, or nothing completes. -/
theorem supply_eq_next_iff {α : Type} (operand : Except Refusal α) (use : α → Result) (s : State) :
    supply operand use = .next s ↔ ∃ v, operand = .ok v ∧ use v = .next s := by
  cases operand <;> simp

theorem supply_eq_fault_iff {α : Type} (operand : Except Refusal α) (use : α → Result) (f : Fault) :
    supply operand use = .fault f ↔ ∃ v, operand = .ok v ∧ use v = .fault f := by
  cases operand <;> simp

theorem supply_eq_refused_iff {α : Type} (operand : Except Refusal α) (use : α → Result) (r : Refusal) :
    supply operand use = .refused r ↔ operand = .error r ∨ ∃ v, operand = .ok v ∧ use v = .refused r := by
  cases operand <;> simp

@[simp] theorem State.read_lit {α : Type} (s : State) (accept : Value → Option α) (v : α) :
    s.read accept (.lit v) = .ok v := rfl

/-- Reading a name depends on that binding alone. -/
theorem State.readName_congr {α : Type} (s t : State) (accept : Value → Option α) (x : Nat)
    (h : s.bindings[x]? = t.bindings[x]?) : s.readName accept x = t.readName accept x := by
  simp only [State.readName, State.lookup, h]

/-- Everything reading a name can give. -/
theorem State.readName_cases {α : Type} (s : State) (accept : Value → Option α) (x : Nat) :
    (s.bindings[x]? = none ∧ s.readName accept x = .error (.unboundName x)) ∨
    (∃ v, s.bindings[x]? = some v ∧ accept v = none ∧ s.readName accept x = .error (.operandKind x)) ∨
    (∃ v a, s.bindings[x]? = some v ∧ accept v = some a ∧ s.readName accept x = .ok a) := by
  unfold State.readName State.lookup
  cases hx : s.bindings[x]? with
  | none => simp
  | some v => cases hv : accept v <;> simp [hv]

theorem State.readName_ok_iff {α : Type} (s : State) (accept : Value → Option α) (x : Nat) (a : α) :
    s.readName accept x = .ok a ↔ ∃ v, s.bindings[x]? = some v ∧ accept v = some a := by
  rcases s.readName_cases accept x with ⟨h, e⟩ | ⟨v, h, hv, e⟩ | ⟨v, b, h, hv, e⟩ <;> simp [h, e]
  all_goals simp [hv]

@[simp] theorem State.readWord_lit (s : State) (v : Word) : s.readWord (.lit v) = .ok v := rfl
@[simp] theorem State.readPayload_lit (s : State) (v : Payload) : s.readPayload (.lit v) = .ok v := rfl
@[simp] theorem State.readInteger_lit (s : State) (v : Nat) : s.readInteger (.lit v) = .ok v := rfl
@[simp] theorem State.readPosition_lit (s : State) (v : Position) : s.readPosition (.lit v) = .ok v := rfl
@[simp] theorem State.readSyndrome_lit (s : State) (v : Syndrome) : s.readSyndrome (.lit v) = .ok v := rfl
@[simp] theorem State.readBit_lit (s : State) (v : Bool) : s.readBit (.lit v) = .ok v := rfl

end Sys2Proof.Machine
end

