-- ==== Sys2Proof/Laws/PerInstr.lean ====
section
/-! SUPPORT. A statement for every instruction, one lemma per constructor: the encoder selects the instruction's own
operation and gives it the number of operands of rule R63. -/

namespace Sys2Proof.Laws.EncodedShape

/-- The drive of `i` selects `i`'s operation and has its number of operands. -/
def Statement (i : Instr) : Prop := (encode i).op = i.op ∧ (encode i).operands.length = i.op.arity

theorem par (w m : Operand Word) : Statement (.par w m) := ⟨rfl, rfl⟩
theorem spread (p : Operand Payload) : Statement (.spread p) := ⟨rfl, rfl⟩
theorem enc (v : Operand Nat) : Statement (.enc v) := ⟨rfl, rfl⟩
theorem bitat (w : Operand Word) (k : Operand Position) : Statement (.bitat w k) := ⟨rfl, rfl⟩
theorem flip (c : Operand Word) (k : Operand Position) : Statement (.flip c k) := ⟨rfl, rfl⟩
theorem syn (c : Operand Word) : Statement (.syn c) := ⟨rfl, rfl⟩
theorem loc (s : Operand Syndrome) : Statement (.loc s) := ⟨rfl, rfl⟩
theorem corb (c : Operand Word) (s : Operand Syndrome) (q : Operand Bool) : Statement (.corb c s q) := ⟨rfl, rfl⟩
theorem cor (c : Operand Word) : Statement (.cor c) := ⟨rfl, rfl⟩
theorem dec (c : Operand Word) : Statement (.dec c) := ⟨rfl, rfl⟩
theorem recv (c : Operand Word) : Statement (.recv c) := ⟨rfl, rfl⟩

end Sys2Proof.Laws.EncodedShape
end

