-- ==== Sys2Proof/Laws/Scope.lean ====
section
/-! SUPPORT. An operand is scoped over the kinds bound exactly when it can be read; when it is not, reading it gives one of
the two refusals for a name the operand has. -/

namespace Sys2Proof.Machine

theorem State.read_scoped_cases {α : Type} (s : State) (accept : Value → Option α) (accepted : List Kind)
    (hk : ∀ v, (accept v).isSome = accepted.contains v.kind) (a : Operand α) :
    (a.scoped s.kinds accepted = true ∧ ∃ v, s.read accept a = .ok v) ∨
    (a.scoped s.kinds accepted = false ∧
      ∃ x ∈ a.names, s.read accept a = .error (.unboundName x) ∨ s.read accept a = .error (.operandKind x)) := by
  cases a with
  | lit v => exact .inl ⟨rfl, v, rfl⟩
  | name x =>
    rcases s.readName_cases accept x with ⟨h, e⟩ | ⟨v, h, hv, e⟩ | ⟨v, b, h, hv, e⟩
    · exact .inr ⟨by simp [Operand.scoped, State.kinds, h], x, by simp [Operand.names], .inl e⟩
    · have hc : accepted.contains v.kind = false := by rw [← hk v, hv]; rfl
      exact .inr ⟨by simpa [Operand.scoped, State.kinds, h] using hc, x, by simp [Operand.names], .inr e⟩
    · have hc : accepted.contains v.kind = true := by rw [← hk v, hv]; rfl
      exact .inl ⟨by simpa [Operand.scoped, State.kinds, h] using hc, b, e⟩

theorem State.readWord_cases (s : State) (a : Operand Word) :
    (a.scoped s.kinds [.word] = true ∧ ∃ v, s.readWord a = .ok v) ∨
    (a.scoped s.kinds [.word] = false ∧
      ∃ x ∈ a.names, s.readWord a = .error (.unboundName x) ∨ s.readWord a = .error (.operandKind x)) :=
  s.read_scoped_cases Value.asWord [.word] (fun v => by cases v <;> rfl) a

theorem State.readPayload_cases (s : State) (a : Operand Payload) :
    (a.scoped s.kinds [.payload] = true ∧ ∃ v, s.readPayload a = .ok v) ∨
    (a.scoped s.kinds [.payload] = false ∧
      ∃ x ∈ a.names, s.readPayload a = .error (.unboundName x) ∨ s.readPayload a = .error (.operandKind x)) :=
  s.read_scoped_cases Value.asPayload [.payload] (fun v => by cases v <;> rfl) a

theorem State.readInteger_cases (s : State) (a : Operand Nat) :
    (a.scoped s.kinds [.payload, .word] = true ∧ ∃ v, s.readInteger a = .ok v) ∨
    (a.scoped s.kinds [.payload, .word] = false ∧
      ∃ x ∈ a.names, s.readInteger a = .error (.unboundName x) ∨ s.readInteger a = .error (.operandKind x)) :=
  s.read_scoped_cases Value.asInteger [.payload, .word] (fun v => by cases v <;> rfl) a

theorem State.readPosition_cases (s : State) (a : Operand Position) :
    (a.scoped s.kinds [.syndrome] = true ∧ ∃ v, s.readPosition a = .ok v) ∨
    (a.scoped s.kinds [.syndrome] = false ∧
      ∃ x ∈ a.names, s.readPosition a = .error (.unboundName x) ∨ s.readPosition a = .error (.operandKind x)) :=
  s.read_scoped_cases Value.asNibble [.syndrome] (fun v => by cases v <;> rfl) a

theorem State.readSyndrome_cases (s : State) (a : Operand Syndrome) :
    (a.scoped s.kinds [.syndrome] = true ∧ ∃ v, s.readSyndrome a = .ok v) ∨
    (a.scoped s.kinds [.syndrome] = false ∧
      ∃ x ∈ a.names, s.readSyndrome a = .error (.unboundName x) ∨ s.readSyndrome a = .error (.operandKind x)) :=
  s.read_scoped_cases Value.asNibble [.syndrome] (fun v => by cases v <;> rfl) a

theorem State.readBit_cases (s : State) (a : Operand Bool) :
    (a.scoped s.kinds [.bit] = true ∧ ∃ v, s.readBit a = .ok v) ∨
    (a.scoped s.kinds [.bit] = false ∧
      ∃ x ∈ a.names, s.readBit a = .error (.unboundName x) ∨ s.readBit a = .error (.operandKind x)) :=
  s.read_scoped_cases Value.asBit [.bit] (fun v => by cases v <;> rfl) a

end Sys2Proof.Machine
end

