-- ==== Sys2Proof/Laws/Step.lean ====
section
/-! SUPPORT. What a step can do. -/

namespace Sys2Proof.Machine

/-- A step that completes evaluated the next line of the trace. -/
theorem step_eq_next {s s' : State} (h : step s = .next s') :
    ∃ d rest i, s.pending = d :: rest ∧ decode d = .ok i ∧ exec i (s.withPending rest) = .next s' := by
  unfold step at h
  cases hp : s.pending with
  | nil => simp [hp] at h
  | cons d rest =>
    cases hd : decode d with
    | error e => simp [hp, hd] at h
    | ok i => exact ⟨d, rest, i, rfl, hd, by simpa [hp, hd] using h⟩

/-- A step that faults evaluated the next line of the trace. -/
theorem step_eq_fault {s : State} {f : Fault} (h : step s = .fault f) :
    ∃ d rest i, s.pending = d :: rest ∧ decode d = .ok i ∧ exec i (s.withPending rest) = .fault f := by
  unfold step at h
  cases hp : s.pending with
  | nil => simp [hp] at h
  | cons d rest =>
    cases hd : decode d with
    | error e => simp [hp, hd] at h
    | ok i => exact ⟨d, rest, i, rfl, hd, by simpa [hp, hd] using h⟩

end Sys2Proof.Machine
end

