-- ==== Sys2Proof/Tests/Slice0.lean ====
section
/-! SUPPORT. Tests on small states. Every expected value is transcribed from the spec's tables and worked examples: the
section 3 vectors of spec/40 to 44 and spec/95_test_vectors.md. The last section shows, for each statement that has
hypotheses, a state and operands that meet all of them. -/

namespace Sys2Proof.Tests

open Sys2Proof Sys2Proof.Machine

/-- The bindings after an operation that completed. -/
def boundBy : Result → Option (List Value)
  | .next s => some s.bindings
  | _ => none

/-- The fault of an operation that raised one. -/
def faultOf : Result → Option Fault
  | .fault f => some f
  | _ => none

/-- The refusal of an operation that has no meaning. -/
def refusalOf : Result → Option Refusal
  | .refused r => some r
  | _ => none

/-- One result of each kind: names 0 to 4. -/
def bench : State :=
  { pending := []
    bindings := [.word 0x005A#16, .payload 0x005#11, .syndrome 0b0111#4, .bit true, .status .noError] }

/-! ### WellFormed (rule R7): the one check and what it refuses -/

theorem test_enc_literal_beyond_port_refused : (Instr.enc (.lit 65536)).wellFormed = false := by decide
theorem test_enc_literal_of_port_width_accepted : (Instr.enc (.lit 65535)).wellFormed = true := by decide

/-- R6: `N = K + NCHECK + NMETA`; R7: the status is 1 error bit plus a position. -/
theorem test_parameters_add_up :
    Config.codewordWidth = Config.payloadWidth + Config.checkCount + Config.metaCount ∧
      Config.statusWidth = 1 + Config.positionWidth ∧ Config.payloadBound = 2 ^ Config.payloadWidth := by decide

/-! ### Decoding: the operand words of rules R56 to R59 and opcode_table.json, written out bit by bit -/

theorem test_decode_par :
    decode ⟨.par, [.word 0b0000000011011010#16, .word 0b1010101010101010#16]⟩ =
      .ok (.par (.lit 0x00DA#16) (.lit 0xAAAA#16)) := by decide
theorem test_decode_spread : decode ⟨.spread, [.word 0b0000000000000101#16]⟩ = .ok (.spread (.lit 0x005#11)) := by decide
theorem test_decode_enc : decode ⟨.enc, [.word 0b0000010011010010#16]⟩ = .ok (.enc (.lit 1234)) := by decide
theorem test_decode_enc_illegal_payload : decode ⟨.enc, [.word 0b0000100000000000#16]⟩ = .ok (.enc (.lit 2048)) := by decide
theorem test_decode_bitat :
    decode ⟨.bitat, [.word 0b1111111111111111#16, .word 0b0000000000001000#16]⟩ =
      .ok (.bitat (.lit 0xFFFF#16) (.lit 8#4)) := by decide
theorem test_decode_flip :
    decode ⟨.flip, [.name 0, .word 0b0000000000000111#16]⟩ = .ok (.flip (.name 0) (.lit 7#4)) := by decide
theorem test_decode_syn : decode ⟨.syn, [.word 0b1001100001110000#16]⟩ = .ok (.syn (.lit 0x9870#16)) := by decide
theorem test_decode_loc : decode ⟨.loc, [.word 0b0000000000000111#16]⟩ = .ok (.loc (.lit 0b0111#4)) := by decide
theorem test_decode_corb :
    decode ⟨.corb, [.word 0b1111111111111111#16, .word 0b0000000000000000#16, .word 0b0000000000000001#16]⟩ =
      .ok (.corb (.lit 0xFFFF#16) (.lit 0b0000#4) (.lit true)) := by decide
theorem test_decode_cor : decode ⟨.cor, [.word 0b0000000011011010#16]⟩ = .ok (.cor (.lit 0x00DA#16)) := by decide
theorem test_decode_dec : decode ⟨.dec, [.word 0b0000000001011010#16]⟩ = .ok (.dec (.lit 0x005A#16)) := by decide
theorem test_decode_recv : decode ⟨.recv, [.word 0b0000000000000001#16]⟩ = .ok (.recv (.lit 0x0001#16)) := by decide
theorem test_decode_position_16_refused :
    decode ⟨.flip, [.word 0x0000#16, .word 16#16]⟩ = .error (.positionOutOfRange 16#16) := by decide
theorem test_decode_payload_2048_refused :
    decode ⟨.spread, [.word 0x0800#16]⟩ = .error (.operandTooWide 11 0x0800#16) := by decide
theorem test_decode_syndrome_16_refused : decode ⟨.loc, [.word 16#16]⟩ = .error (.operandTooWide 4 16#16) := by decide
theorem test_decode_bit_2_refused :
    decode ⟨.corb, [.name 0, .name 2, .word 2#16]⟩ = .error (.operandTooWide 1 2#16) := by decide
theorem test_decode_operand_missing_refused : decode ⟨.flip, [.name 0]⟩ = .error (.operandCount .flip 1) := by decide
theorem test_table_word_enc : decodeTableWord 16 0x0005 = some (.enc (.lit 5)) := by decide
theorem test_table_word_loc : decodeTableWord 8 0x0F = some (.loc (.lit 0b1111#4)) := by decide

/-! ### The eleven operations -/

/-- R75's worked example. -/
theorem test_par_worked_example :
    boundBy (exec (.par (.lit 0x00DA#16) (.lit 0xAAAA#16)) State.reset) = some [.bit true] := by decide
/-- Spec 95 section 2.1, row 0x1234. -/
theorem test_par_row_1234 : boundBy (exec (.par (.lit 0x1234#16) (.lit 0xF0F0#16)) State.reset) = some [.bit true] := by decide
/-- R85's worked example. -/
theorem test_spread_worked_example : boundBy (exec (.spread (.lit 0x005#11)) State.reset) = some [.word 0x0048#16] := by decide
/-- Spec 95 section 2.2: `w0` of 1715. -/
theorem test_spread_1715 : boundBy (exec (.spread (.lit 0x6B3#11)) State.reset) = some [.word 0xD628#16] := by decide
/-- Spec 95 section 2.2: 1234. -/
theorem test_enc_1234 : boundBy (exec (.enc (.lit 1234)) State.reset) = some [.word 0x9A30#16] := by decide
/-- Spec 95 section 2.2: 2049 is never truncated to 1. -/
theorem test_enc_2049_faults : faultOf (exec (.enc (.lit 2049)) State.reset) = some (.invalidPayload 2049) := by decide
/-- Spec 95 section 2.3. -/
theorem test_bitat_9 : boundBy (exec (.bitat (.lit 0x8117#16) (.lit 9#4)) State.reset) = some [.bit false] := by decide
theorem test_bitat_8 : boundBy (exec (.bitat (.lit 0x8117#16) (.lit 8#4)) State.reset) = some [.bit true] := by decide
/-- R103's worked example, with the word and the position both by name. -/
theorem test_flip_by_names :
    boundBy (exec (.flip (.name 0) (.name 2)) bench) = some (bench.bindings ++ [.word 0x00DA#16]) := by decide
theorem test_flip_11 : boundBy (exec (.flip (.lit 0xD728#16) (.lit 11#4)) State.reset) = some [.word 0xDF28#16] := by decide
/-- Spec 95 section 3.3. -/
theorem test_syn_position_11 :
    boundBy (exec (.syn (.lit 0xDF28#16)) State.reset) = some [.syndrome 0b1011#4, .bit true] := by decide
theorem test_syn_double_error :
    boundBy (exec (.syn (.lit 0x9870#16)) State.reset) = some [.syndrome 0b1111#4, .bit false] := by decide
/-- R115. -/
theorem test_loc_6 : boundBy (exec (.loc (.lit 0b0110#4)) State.reset) = some [.word 0x0040#16] := by decide
theorem test_loc_9 : boundBy (exec (.loc (.lit 0b1001#4)) State.reset) = some [.word 0x0200#16] := by decide
/-- Spec 43 section 5: check outcomes that are not those of the word. -/
theorem test_corb_even_ignores_syndrome :
    boundBy (exec (.corb (.lit 0x005A#16) (.lit 0b0111#4) (.lit false)) State.reset) =
      some [.word 0x005A#16, .status .noError] := by decide
theorem test_corb_odd_flips_named_position :
    boundBy (exec (.corb (.name 0) (.name 2) (.name 3)) bench) =
      some (bench.bindings ++ [.word 0x00DA#16, .status (.corrected 7#4)]) := by decide
/-- Spec 43 section 5. -/
theorem test_cor_dead :
    boundBy (exec (.cor (.lit 0xDEAD#16)) State.reset) = some [.word 0xDEED#16, .status (.corrected 6#4)] := by decide
theorem test_cor_abcd_unchanged :
    boundBy (exec (.cor (.lit 0xABCD#16)) State.reset) = some [.word 0xABCD#16, .status .noError] := by decide
/-- Spec 44 section 3. -/
theorem test_dec_1234 : boundBy (exec (.dec (.lit 0x1234#16)) State.reset) = some [.payload 0x092#11] := by decide
theorem test_dec_position_9 : boundBy (exec (.dec (.lit 0x0200#16)) State.reset) = some [.payload 0x010#11] := by decide
theorem test_recv_beef :
    boundBy (exec (.recv (.lit 0xBEEF#16)) State.reset) =
      some [.word 0xBEEB#16, .payload 0x5FF#11, .status (.corrected 2#4)] := by decide
theorem test_recv_8001 :
    boundBy (exec (.recv (.lit 0x8001#16)) State.reset) =
      some [.word 0x8001#16, .payload 0x400#11, .status .noError] := by decide

/-! ### Steps, refusals, ports, CodeBlock -/

theorem test_step_runs_fetch_word :
    boundBy (step (State.reset.withFetchWord 16 0x07FF)) = some [.word 0xFFFF#16] := by decide
theorem test_step_unbound_name_refused :
    refusalOf (step (State.ofTrace [⟨.dec, [.name 0]⟩])) = some (.unboundName 0) := by decide
theorem test_status_is_no_word_operand : refusalOf (exec (.dec (.name 4)) bench) = some (.operandKind 4) := by decide
/-- R30: `invalid_o` at the boundary. -/
theorem test_port_invalid_boundary :
    (encoderPorts 0x0800#16).invalid_o = true ∧ encoderPorts 0x07FF#16 = ⟨0xFFFF#16, false⟩ := by decide
/-- Spec 95 section 5.1, the status word `1 0111`. -/
theorem test_port_status_bits : (ErrorStatus.corrected 7#4).bits = 0b10111#5 := by decide
theorem test_receive_path_ports : receivePathPorts 0x00DA#16 = ⟨0x005A#16, 0x005#11, true, 7#4⟩ := by decide
/-- R34, with the source's first scenario. -/
theorem test_codeblock_scenario :
    (CodeBlock.create 5).toOption.map (fun b => (b.injectFault 7#4).fix) =
      some (⟨0x005A#16, 0x005A#16, 0x005#11⟩, .corrected 7#4) := by decide

/-! ### Witnesses: the hypotheses of the statements can be met -/

theorem witness_StepEvaluatesDrivenOperation :
    (State.ofTrace [⟨.dec, [.word 0x005A#16]⟩]).pending = ⟨.dec, [.word 0x005A#16]⟩ :: [] ∧
      decode ⟨.dec, [.word 0x005A#16]⟩ = .ok (.dec (.lit 0x005A#16)) := by decide
theorem witness_StepRefusesWithoutOperation :
    State.reset.pending = [] ∧ (State.ofTrace [⟨.dec, []⟩]).pending = ⟨.dec, []⟩ :: [] ∧
      decode ⟨.dec, []⟩ = .error (.operandCount .dec 0) := by decide
theorem witness_FetchWordIsEvaluatedNext :
    decodeTableWord 16 0xFFFF = some (.enc (.lit 65535)) ∧ decodeTableWord 8 0 = some (.loc (.lit 0#4)) := by decide
theorem witness_DecodeOfEncodeIsIdentity : (Instr.enc (.lit 65535)).wellFormed = true := by decide
theorem witness_EncodeOfDecodeIsIdentity :
    decode ⟨.corb, [.name 0, .word 15#16, .word 1#16]⟩ = .ok (.corb (.name 0) (.lit 15#4) (.lit true)) := by decide
theorem witness_OutOfRangePositionIsRefused :
    (Op.flip = .bitat ∨ Op.flip = .flip) ∧ 16 ≤ (16#16).toNat ∧ (15#16).toNat < 16 ∧
      (State.ofTrace [⟨.flip, [.name 0, .word 16#16]⟩]).pending = ⟨.flip, [.name 0, .word 16#16]⟩ :: [] := by decide
theorem witness_OperandsAreLiteralsOrBoundNames :
    bench.bindings[0]? = some (.word 0x005A#16) ∧ bench.bindings[1]? = some (.payload 0x005#11) ∧
      bench.bindings[2]? = some (.syndrome 0b0111#4) ∧ bench.bindings[3]? = some (.bit true) ∧
      bench.bindings[5]? = none := by decide
/-- For the result statements of PAR, SPREAD, BITAT, FLIP, SYN, LOC, CORB, COR, DEC and RECV: every kind of operand reads,
in either form. -/
theorem witness_OperandsRead :
    bench.readWord (.lit 0xFFFF#16) = .ok 0xFFFF#16 ∧ bench.readWord (.name 0) = .ok 0x005A#16 ∧
      bench.readPayload (.name 1) = .ok 0x005#11 ∧ bench.readPosition (.name 2) = .ok 7#4 ∧
      bench.readSyndrome (.lit 15#4) = .ok 15#4 ∧ bench.readBit (.name 3) = .ok true := by decide
theorem witness_EncBindsCodewordOrFaults :
    bench.readInteger (.lit 2047) = .ok 2047 ∧ 2047 < 2048 ∧ bench.readInteger (.lit 2048) = .ok 2048 ∧ 2048 ≤ 2048 ∧
      bench.readInteger (.name 1) = .ok 5 := by decide
theorem witness_ParLaws : maskA.getLsbD (1#4).toNat = true ∧ (0x0000#16).getLsbD (1#4).toNat = false := by decide
theorem witness_SpreadLaws : spread 0x005#11 = spread 0x005#11 := rfl
theorem witness_EncStepOrder :
    [(maskD, 8), (maskA, 1), (maskC, 4), (maskB, 2), (maskAll, 0)].Perm
        [(maskA, 1), (maskB, 2), (maskC, 4), (maskD, 8), (maskAll, 0)] ∧
      [(maskD, 8), (maskA, 1), (maskC, 4), (maskB, 2), (maskAll, 0)].getLast? = some (maskAll, 0) ∧
      [(maskA, 1), (maskB, 2), (maskC, 4), (maskAll, 0), (maskD, 8)].Perm
        [(maskA, 1), (maskB, 2), (maskC, 4), (maskD, 8), (maskAll, 0)] ∧
      [(maskA, 1), (maskB, 2), (maskC, 4), (maskAll, 0), (maskD, 8)].getLast? ≠ some (maskAll, 0) := by decide
theorem witness_PayloadBelowBound : 0 < 2048 ∧ 2047 < 2048 := by decide
theorem witness_ValidCodewordsAreExactlyEncodings :
    syn 0x005A#16 = (0b0000#4, false) ∧ enc 5 = .ok 0x005A#16 ∧ enc 5 = enc 5 := by decide
theorem witness_ValidCodewordsDifferInFourPositions :
    validCodeword 0x000F#16 = true ∧ validCodeword 0x0033#16 = true ∧ (0x000F#16 : Word) ≠ 0x0033#16 ∧
      (0x000F#16 : Word) ≠ 0x0000#16 := by decide
theorem witness_FlipLaws : (8#4).toNat ∈ [0, 1, 2, 4, 8] ∧ dataPos.getD 10 0 = (15#4).toNat := by decide
theorem witness_SynLaws : validCodeword 0x005A#16 = true ∧ ([1#4, 2#4] : List Position).Nodup := by decide
theorem witness_PositionSignatureIsItsNumber :
    validCodeword 0x0000#16 = true ∧
      ∀ i < 16, ((0x8000#16).getLsbD i ≠ (0x0000#16).getLsbD i ↔ i = (15#4).toNat) := by decide
theorem witness_CorBindsCorbAfterSyn :
    validCodeword 0x005A#16 = true ∧ par 0x0003#16 maskAll = false ∧ par 0x00DA#16 maskAll = true := by decide
theorem witness_CorAlwaysRestoresParity :
    cor 0x00DA#16 = (0x005A#16, .corrected 7#4) ∧ cor 0x0003#16 = (0x0003#16, .noError) := by decide
theorem witness_CorRepairsEverySingleError : 2047 < 2048 ∧ (8#4).toNat ∈ [1, 2, 4, 8] ∧ (0#4 : Position) = 0#4 := by decide
theorem witness_CorPassesZeroAndTwoErrors : 1234 < 2048 ∧ (6#4 : Position) ≠ 9#4 := by decide
theorem witness_CorOnThreeOrMoreErrors :
    validCodeword 0x005A#16 = true ∧ ([1#4, 2#4, 3#4] : List Position).Nodup ∧ 3 ≤ [1#4, 2#4, 3#4].length ∧
      (0#4 : Position) = [1#4, 2#4, 3#4].foldl (· ^^^ ·) 0b0000#4 ∧ [1#4, 2#4, 3#4].length % 2 = 1 ∧
      ([0#4, 1#4, 2#4, 3#4] : List Position).Nodup ∧ [0#4, 1#4, 2#4, 3#4].length % 2 = 0 := by decide
theorem witness_CorIsIdempotentOnWords : par 0x0003#16 maskAll = false ∧ par 0x1234#16 maskAll = true := by decide
theorem witness_DecLaws : (0x0117#16 : Word) &&& maskData = 0x0000#16 ∧ (0x0117#16 : Word) ≠ 0x0000#16 := by decide
theorem witness_TransferSurvivesOneFlippedBit :
    (State.ofTrace [encode (.enc (.lit 5)), encode (.flip (.name 0) (.lit 7#4)), encode (.recv (.name 1))]).pending =
      [encode (.enc (.lit 5)), encode (.flip (.name 0) (.lit 7#4)), encode (.recv (.name (0 + 1)))] ∧ 5 < 2048 := by decide
theorem witness_FaultEndsTheTrace :
    (Instr.enc (.lit 2048)).wellFormed = true ∧
      (State.ofTrace [encode (.enc (.lit 2048)), encode (.cor (.name 0))]).pending =
        encode (.enc (.lit 2048)) :: [encode (.cor (.name 0))] ∧
      (State.ofTrace []).readInteger (.lit 2048) = .ok 2048 := by decide
theorem witness_ScopedOperationCompletes :
    (Instr.corb (.name 0) (.name 2) (.name 3)).scoped bench.kinds = true ∧
      (Instr.enc (.lit 2048)).scoped bench.kinds = true := by decide
theorem witness_EarlierBindingsNeverChange :
    boundBy (exec (.loc (.name 2)) bench) = some (bench.bindings ++ [.word 0x0080#16]) ∧
      bench.bindings[0]? = some (.word 0x005A#16) := by decide
theorem witness_ResultsDependOnOperandsOnly :
    (∀ x ∈ (Instr.dec (.name 0)).names, bench.bindings[x]? = [Value.word 0x005A#16][x]?) ∧
      bench.bindings ≠ [Value.word 0x005A#16] := by decide
theorem witness_StepKeepsWellScoped :
    (State.ofTrace [encode (.enc (.lit 5)), encode (.dec (.name 0))]).wellScoped = true ∧
      boundBy (step (State.ofTrace [encode (.enc (.lit 5)), encode (.dec (.name 0))])) = some [.word 0x005A#16] := by decide
theorem witness_WellScopedTraceNeverStuck :
    (State.ofTrace [encode (.enc (.lit 5)), encode (.dec (.name 0))]).wellScoped = true ∧
      2 ≤ (State.ofTrace [encode (.enc (.lit 5)), encode (.dec (.name 0))]).pending.length := by decide
theorem witness_EncoderPorts : (encoderPorts 0x07FF#16).invalid_o = false ∧ (encoderPorts 0x0800#16).invalid_o = true := by
  decide
theorem witness_StatusBitsRoundTrip : (0b00111#5).getLsbD 4 = false ∧ (0b00111#5 : BitVec 5) ≠ 0b00000#5 := by decide
theorem witness_CodeBlockLifecycle : CodeBlock.create 5 = .ok ⟨0x005A#16, 0x005A#16, 0x005#11⟩ := by decide

end Sys2Proof.Tests
end

section
/-! The masks of rule R13 bit by bit: each parity group is a bit of the position's number, the data mask is the set of the
positions in `dataPos`, and the parity mask is its complement. -/

namespace Sys2Proof.Machine

/-- Group A collects the positions whose number has bit 0 set (rule R13). -/
theorem maskA_getLsbD_eq_testBit : ∀ i < 16, maskA.getLsbD i = i.testBit 0 := by decide

/-- Group B collects the positions whose number has bit 1 set (rule R13). -/
theorem maskB_getLsbD_eq_testBit : ∀ i < 16, maskB.getLsbD i = i.testBit 1 := by decide

/-- Group C collects the positions whose number has bit 2 set (rule R13). -/
theorem maskC_getLsbD_eq_testBit : ∀ i < 16, maskC.getLsbD i = i.testBit 2 := by decide

/-- Group D collects the positions whose number has bit 3 set (rule R13). -/
theorem maskD_getLsbD_eq_testBit : ∀ i < 16, maskD.getLsbD i = i.testBit 3 := by decide

theorem maskAll_eq_allOnes : maskAll = BitVec.allOnes 16 := rfl

theorem maskAll_getLsbD {i : Nat} (hi : i < 16) : maskAll.getLsbD i = true := by
  rw [maskAll_eq_allOnes, BitVec.getLsbD_allOnes, decide_eq_true hi]

theorem maskData_getLsbD : ∀ i < 16, maskData.getLsbD i = decide (i ∈ dataPos) := by decide

/-- Every position is either a data position or a parity position, and none is both (rule R13). -/
theorem maskParity_eq_not_maskData : maskParity = ~~~maskData := rfl

theorem maskParity_getLsbD {i : Nat} (hi : i < 16) : maskParity.getLsbD i = !decide (i ∈ dataPos) := by
  rw [maskParity_eq_not_maskData, BitVec.getLsbD_not, maskData_getLsbD i hi, decide_eq_true hi, Bool.true_and]

/-- The positions below 16 with a given bit of their number set, listed (the position sets of rule R13). -/
theorem testBit_eq_mem_positionGroup :
    ∀ i < 16,
      i.testBit 0 = decide (i ∈ [1, 3, 5, 7, 9, 11, 13, 15]) ∧ i.testBit 1 = decide (i ∈ [2, 3, 6, 7, 10, 11, 14, 15]) ∧
      i.testBit 2 = decide (i ∈ [4, 5, 6, 7, 12, 13, 14, 15]) ∧
      i.testBit 3 = decide (i ∈ [8, 9, 10, 11, 12, 13, 14, 15]) := by decide

/-- The five parity and meta positions are those that hold no payload bit (rule R13). -/
theorem not_mem_dataPos_eq_mem_parityPositions :
    ∀ i < 16, (!decide (i ∈ dataPos)) = decide (i ∈ [0, 1, 2, 4, 8]) := by decide

/-- Settles O11: each group mask is a bit of the position's number, and the positions with that bit set are the listed
ones; the data and the parity mask are `dataPos` and its complement. -/
theorem masksAreThePositionGroups : Obligations.MasksAreThePositionGroups := by
  unfold Obligations.MasksAreThePositionGroups
  intro i hi
  have hA := maskA_getLsbD_eq_testBit i hi
  have hB := maskB_getLsbD_eq_testBit i hi
  have hC := maskC_getLsbD_eq_testBit i hi
  have hD := maskD_getLsbD_eq_testBit i hi
  have hParity := (maskParity_getLsbD hi).trans (not_mem_dataPos_eq_mem_parityPositions i hi)
  obtain ⟨gA, gB, gC, gD⟩ := testBit_eq_mem_positionGroup i hi
  exact ⟨hA.trans gA, hB.trans gB, hC.trans gC, hD.trans gD, maskAll_getLsbD hi, maskData_getLsbD i hi, hParity,
    hA, hB, hC, hD⟩

end Sys2Proof.Machine
end

section
/-! The laws of PAR that the code rests on (spec/40_parity_tree.md rule R78): it is linear in the word, a flip at position
`k` changes exactly the groups that hold `k`, and setting a group's parity position makes that group even. -/

namespace Sys2Proof.Machine

/-- PAR is linear in the word (rule R78). -/
theorem par_xor (u v m : Word) : par (u ^^^ v) m = (par u m ^^ par v m) := by
  have hdistrib : (u ^^^ v) &&& m = (u &&& m) ^^^ (v &&& m) := by
    ext i
    simp only [BitVec.getElem_and, BitVec.getElem_xor, Bool.and_xor_distrib_right]
  simp only [par, xorReduce_eq_xorBelow, hdistrib, xorBelow_xor]

theorem xorBelow_of_lone_bit {width : Nat} (w : BitVec width) (k : Nat) (h : ∀ i < width, i ≠ k → w.getLsbD i = false)
    (n : Nat) (hn : n ≤ width) : xorBelow w n = (decide (k < n) && w.getLsbD k) := by
  induction n with
  | zero => simp [xorBelow]
  | succ n ih =>
    rw [xorBelow, ih (by omega)]
    rcases Nat.lt_trichotomy k n with hk | rfl | hk
    · simp [h n hn (by omega), hk, Nat.lt_succ_of_lt hk]
    · simp
    · simp [h n hn (by omega), show ¬ k < n by omega, show ¬ k < n + 1 by omega]

/-- The parity of a lone bit says whether the group holds its position (rule R78). -/
theorem par_oneHot (k : Position) (m : Word) : par (oneHot k) m = m.getLsbD k.toNat := by
  have hk : k.toNat < 16 := k.isLt
  have hlone : ∀ i < 16, i ≠ k.toNat → (oneHot k &&& m).getLsbD i = false := by
    intro i hi hne
    rw [BitVec.getLsbD_and, oneHot_getLsbD k i hi, decide_eq_false hne, Bool.false_and]
  rw [par, xorReduce_eq_xorBelow, xorBelow_of_lone_bit _ k.toNat hlone 16 (Nat.le_refl 16), BitVec.getLsbD_and,
    oneHot_getLsbD k _ hk, decide_eq_true hk, decide_eq_true rfl, Bool.true_and, Bool.true_and]

/-- A flip changes the parity of exactly the groups that hold its position (rule R78). -/
theorem par_flipBit (c : Word) (k : Position) (m : Word) : par (flipBit c k) m = (par c m ^^ m.getLsbD k.toNat) := by
  rw [flipBit, par_xor, par_oneHot]

/-- Setting a parity position leaves every other group as it was (rule R88). -/
theorem par_setParity_of_not_mem {m : Word} {j : Nat} (w group : Word) (hm : m.getLsbD j = false) :
    par (setParity w group j) m = par w m := by
  have hmasked : setParity w group j &&& m = w &&& m := by
    refine BitVec.eq_of_getLsbD_eq fun i hi => ?_
    rw [BitVec.getLsbD_and, BitVec.getLsbD_and, setParity_getLsbD w group j i hi]
    by_cases hij : i = j
    · rw [hij, hm, Bool.and_false, Bool.and_false]
    · rw [decide_eq_false hij, Bool.false_and, Bool.or_false]
  rw [par, hmasked, ← par]

/-- Setting a parity position that holds 0 is a flip there when its group is odd, and nothing when it is even. -/
theorem setParity_eq_ite_flipBit {w : Word} {k : Position} (group : Word) (hw : w.getLsbD k.toNat = false) :
    setParity w group k.toNat = if par w group then flipBit w k else w := by
  refine BitVec.eq_of_getLsbD_eq fun i hi => ?_
  rw [setParity_getLsbD w group _ i hi]
  cases par w group with
  | false => simp
  | true =>
    simp only [Bool.and_true, if_true, flipBit_getLsbD w k i hi]
    by_cases hik : i = k.toNat
    · simp [hik, hw]
    · simp [hik]

/-- Setting the parity position of a group makes the group even (rule R78). -/
theorem par_setParity_self {w group : Word} {k : Position} (hw : w.getLsbD k.toNat = false)
    (hgroup : group.getLsbD k.toNat = true) : par (setParity w group k.toNat) group = false := by
  rw [setParity_eq_ite_flipBit group hw]
  cases hpar : par w group with
  | false => simp [hpar]
  | true => simp [par_flipBit, hpar, hgroup]

end Sys2Proof.Machine
end

section
/-! What ENC gives (spec/41_encoder.md): the payload stands at the data positions, and all five checks pass. -/

namespace Sys2Proof.Machine

/-- The bits taken depend on the listed positions only. -/
theorem gather_eq_of_positions {c c' : Word} (l : List Nat) (i : Nat) (h : ∀ j ∈ l, c.getLsbD j = c'.getLsbD j) :
    gather c i l = gather c' i l := by
  induction l generalizing i with
  | nil => rfl
  | cons position rest ih =>
    obtain ⟨hposition, hrest⟩ := List.forall_mem_cons.mp h
    rw [gather, gather, hposition, ih (i + 1) hrest]

/-- DEC reads the data positions and nothing else (rule R61). -/
theorem dec_eq_of_dataPos {c c' : Word} (h : ∀ j ∈ dataPos, c.getLsbD j = c'.getLsbD j) : dec c = dec c' :=
  gather_eq_of_positions dataPos 0 h

/-- DEC takes back what SPREAD placed (rule R86). -/
theorem dec_spread (p : Payload) : dec (spread p) = p := by
  refine BitVec.eq_of_getLsbD_eq fun i hi => ?_
  rw [dec_getLsbD]
  interval_cases i <;> simp [spread_getLsbD, -BitVec.getLsbD_eq_getElem]

/-- SPREAD leaves the five parity and meta positions 0 (rule R85). -/
theorem spread_getLsbD_of_not_mem_dataPos {j : Nat} (p : Payload) (hj : j ∉ dataPos) : (spread p).getLsbD j = false := by
  simp only [dataPos, List.mem_cons, List.not_mem_nil, or_false, not_or] at hj
  simp [spread_getLsbD, hj]

theorem setParity_getLsbD_of_ne {w group : Word} {position j : Nat} (h : j ≠ position) :
    (setParity w group position).getLsbD j = w.getLsbD j := by
  by_cases hj : j < 16
  · rw [setParity_getLsbD w group position j hj, decide_eq_false h, Bool.false_and, Bool.or_false]
  · rw [BitVec.getLsbD_of_ge _ _ (Nat.le_of_not_lt hj), BitVec.getLsbD_of_ge _ _ (Nat.le_of_not_lt hj)]

/-- The six steps write the parity and meta positions only (rule R88). -/
theorem encodePayloadBits_getLsbD_of_mem_dataPos (p : Payload) :
    ∀ j ∈ dataPos, (encodePayloadBits p).getLsbD j = (spread p).getLsbD j := by
  intro j hj
  have hdata : ∀ j ∈ dataPos, j ≠ 0 ∧ j ≠ 1 ∧ j ≠ 2 ∧ j ≠ 4 ∧ j ≠ 8 := by decide
  obtain ⟨h0, h1, h2, h4, h8⟩ := hdata j hj
  rw [encodePayloadBits, setParity_getLsbD_of_ne h0, setParity_getLsbD_of_ne h8, setParity_getLsbD_of_ne h4,
    setParity_getLsbD_of_ne h2, setParity_getLsbD_of_ne h1]

/-- DEC takes the payload back from its codeword (rule R138). -/
theorem dec_encodePayloadBits (p : Payload) : dec (encodePayloadBits p) = p := by
  rw [dec_eq_of_dataPos (encodePayloadBits_getLsbD_of_mem_dataPos p), dec_spread]

/-- All five checks pass on a codeword. Each step makes its own group even, and no later step touches that group: of the
positions 1, 2, 4, 8 and 0 each group A to D holds its own only, and the group of all positions is set last (rules R88,
R91). -/
theorem par_encodePayloadBits (p : Payload) :
    par (encodePayloadBits p) maskA = false ∧ par (encodePayloadBits p) maskB = false ∧
      par (encodePayloadBits p) maskC = false ∧ par (encodePayloadBits p) maskD = false ∧
      par (encodePayloadBits p) maskAll = false := by
  have hspread : ∀ j ∈ [1, 2, 4, 8, 0], (spread p).getLsbD j = false := fun j hj =>
    spread_getLsbD_of_not_mem_dataPos p (by revert j; decide)
  simp only [List.forall_mem_cons] at hspread
  obtain ⟨h1, h2, h4, h8, h0, -⟩ := hspread
  simp only [encodePayloadBits]
  refine ⟨?_, ?_, ?_, ?_, ?_⟩
  · iterate 4 rw [par_setParity_of_not_mem _ _ (by decide)]
    exact par_setParity_self (k := 1#4) h1 (by decide)
  · iterate 3 rw [par_setParity_of_not_mem _ _ (by decide)]
    refine par_setParity_self (k := 2#4) ?_ (by decide)
    rw [setParity_getLsbD_of_ne (by decide)]
    exact h2
  · iterate 2 rw [par_setParity_of_not_mem _ _ (by decide)]
    refine par_setParity_self (k := 4#4) ?_ (by decide)
    iterate 2 rw [setParity_getLsbD_of_ne (by decide)]
    exact h4
  · rw [par_setParity_of_not_mem _ _ (by decide)]
    refine par_setParity_self (k := 8#4) ?_ (by decide)
    iterate 3 rw [setParity_getLsbD_of_ne (by decide)]
    exact h8
  · refine par_setParity_self (k := 0#4) ?_ (by decide)
    iterate 4 rw [setParity_getLsbD_of_ne (by decide)]
    exact h0

/-- The syndrome and the overall parity are 0 exactly when all five checks pass (rule R110). -/
theorem syn_eq_zero_iff (c : Word) :
    syn c = (0b0000#4, false) ↔
      par c maskA = false ∧ par c maskB = false ∧ par c maskC = false ∧ par c maskD = false ∧ par c maskAll = false := by
  obtain ⟨hA, hB, hC, hD⟩ := syn_fst_getLsbD c
  rw [← hA, ← hB, ← hC, ← hD, ← syn_snd]
  constructor
  · intro h
    rw [h]
    decide
  · rintro ⟨h0, h1, h2, h3, hall⟩
    refine Prod.ext (BitVec.eq_of_getLsbD_eq fun i hi => ?_) hall
    interval_cases i
    · exact h0
    · exact h1
    · exact h2
    · exact h3

theorem validCodeword_iff (c : Word) : validCodeword c = true ↔ syn c = (0b0000#4, false) := by
  rw [validCodeword, beq_iff_eq]

/-- Every codeword that ENC gives is valid (rule R91). -/
theorem validCodeword_encodePayloadBits (p : Payload) : validCodeword (encodePayloadBits p) = true :=
  (validCodeword_iff _).mpr ((syn_eq_zero_iff _).mpr (par_encodePayloadBits p))

end Sys2Proof.Machine
end

section
/-! A single flip in a valid codeword (spec/43_syndrome_and_corrector.md): its syndrome is its position, LOC turns the
syndrome into the one wrong bit, and COR flips it back. -/

namespace Sys2Proof.Machine

theorem flipBit_flipBit (c : Word) (k : Position) : flipBit (flipBit c k) k = c := by
  rw [flipBit, flipBit, BitVec.xor_assoc, BitVec.xor_self, BitVec.xor_zero]

/-- A flip adds its position to the syndrome and inverts the overall parity (rules R62, R104). -/
theorem syn_flipBit (c : Word) (k : Position) : syn (flipBit c k) = ((syn c).1 ^^^ k, !(syn c).2) := by
  have hk : k.toNat < 16 := k.isLt
  refine Prod.ext (BitVec.eq_of_getLsbD_eq fun i hi => ?_) ?_
  · obtain ⟨hA, hB, hC, hD⟩ := syn_fst_getLsbD c
    obtain ⟨hA', hB', hC', hD'⟩ := syn_fst_getLsbD (flipBit c k)
    rw [BitVec.getLsbD_xor]
    interval_cases i
    · rw [hA', par_flipBit, hA, maskA_getLsbD_eq_testBit _ hk, BitVec.testBit_toNat]
    · rw [hB', par_flipBit, hB, maskB_getLsbD_eq_testBit _ hk, BitVec.testBit_toNat]
    · rw [hC', par_flipBit, hC, maskC_getLsbD_eq_testBit _ hk, BitVec.testBit_toNat]
    · rw [hD', par_flipBit, hD, maskD_getLsbD_eq_testBit _ hk, BitVec.testBit_toNat]
  · rw [syn_snd, syn_snd, par_flipBit, maskAll_getLsbD hk, Bool.xor_true]

/-- The four narrowings leave the position whose number is the syndrome (rule R114). -/
theorem loc_eq_oneHot : ∀ s : Syndrome, loc s = oneHot s := by decide

theorem corb_true (c : Word) (s : Syndrome) : corb c s true = (flipBit c s, .corrected s) := by
  rw [corb, if_pos rfl, loc_eq_oneHot, flipBit]

theorem cor_eq_corb_syn (c : Word) : cor c = corb c (syn c).1 (syn c).2 := rfl

/-- COR repairs a single flip of a valid codeword, at whichever position (rules R120, R124). -/
theorem cor_flipBit_of_validCodeword {c : Word} (h : validCodeword c = true) (k : Position) :
    cor (flipBit c k) = (c, .corrected k) := by
  have hsyn : syn (flipBit c k) = (k, true) := by
    rw [syn_flipBit, (validCodeword_iff c).mp h, BitVec.zero_xor, Bool.not_false]
  rw [cor_eq_corb_syn, hsyn, corb_true, flipBit_flipBit]

end Sys2Proof.Machine
end

section
/-! The CodeBlock record (spec/10_state.md rules R33, R34): what creation, fault injection and correction write. -/

namespace Sys2Proof.Machine

theorem CodeBlock.create_eq_ok_iff (v : Nat) (b : CodeBlock) :
    CodeBlock.create v = .ok b ↔
      enc v = .ok b.codeword ∧ b.snapshot = b.codeword ∧ b.payload = BitVec.ofNat 11 v := by
  obtain ⟨codeword, snapshot, payload⟩ := b
  unfold CodeBlock.create
  cases enc v with
  | ok c =>
    simp only [Except.ok.injEq, CodeBlock.mk.injEq]
    constructor
    · rintro ⟨rfl, rfl, rfl⟩
      exact ⟨rfl, rfl, rfl⟩
    · rintro ⟨rfl, rfl, rfl⟩
      exact ⟨rfl, rfl, rfl⟩
  | error f => simp

theorem CodeBlock.create_eq_error_iff (v : Nat) (f : Fault) : CodeBlock.create v = .error f ↔ enc v = .error f := by
  unfold CodeBlock.create
  cases enc v <;> simp

@[simp] theorem CodeBlock.injectFault_codeword (b : CodeBlock) (k : Position) :
    (b.injectFault k).codeword = flipBit b.codeword k := rfl
@[simp] theorem CodeBlock.injectFault_snapshot (b : CodeBlock) (k : Position) :
    (b.injectFault k).snapshot = b.snapshot := rfl
@[simp] theorem CodeBlock.injectFault_payload (b : CodeBlock) (k : Position) :
    (b.injectFault k).payload = b.payload := rfl

theorem CodeBlock.fix_eq (b : CodeBlock) :
    b.fix = ({ b with codeword := (cor b.codeword).1 }, (cor b.codeword).2) := rfl

/-- A created block holds a valid codeword. -/
theorem CodeBlock.validCodeword_of_create {v : Nat} {b : CodeBlock} (h : CodeBlock.create v = .ok b) :
    validCodeword b.codeword = true := by
  obtain ⟨henc, -, -⟩ := (CodeBlock.create_eq_ok_iff v b).mp h
  rw [((enc_eq_ok_iff v _).mp henc).2]
  exact validCodeword_encodePayloadBits _

/-- On a block that holds a valid codeword, correction undoes one fault injection and names its position. -/
theorem CodeBlock.fix_injectFault {b : CodeBlock} (h : validCodeword b.codeword = true) (k : Position) :
    (b.injectFault k).fix = (b, .corrected k) := by
  rw [CodeBlock.fix_eq, CodeBlock.injectFault_codeword, cor_flipBit_of_validCodeword h k]
  rfl

/-- Settles O56: creation is ENC with the codeword kept twice, so its outcome is ENC's, and DEC takes the payload back. -/
theorem codeBlockCreation : Obligations.CodeBlockCreation := by
  unfold Obligations.CodeBlockCreation
  constructor
  · intro v hv
    have henc : enc v = .ok (encodePayloadBits (BitVec.ofNat 11 v)) := (enc_eq_ok_iff v _).mpr ⟨hv, rfl⟩
    exact ⟨⟨_, _, _⟩, (CodeBlock.create_eq_ok_iff v _).mpr ⟨henc, rfl, rfl⟩, henc, rfl, rfl, dec_encodePayloadBits _⟩
  · intro v hv
    exact (CodeBlock.create_eq_error_iff v _).mpr ((enc_eq_error_iff v _).mpr ⟨hv, rfl⟩)

/-- Settles O57: both operations write the codeword field only, and a created block's codeword is valid, so that correction
undoes one fault injection. -/
theorem codeBlockLifecycle : Obligations.CodeBlockLifecycle := by
  unfold Obligations.CodeBlockLifecycle
  refine ⟨fun b k => ⟨b.injectFault_codeword k, b.injectFault_snapshot k, b.injectFault_payload k⟩, fun b => ?_,
    fun v b k hcreate => ?_⟩
  · rw [CodeBlock.fix_eq]
    exact ⟨rfl, rfl, rfl, rfl⟩
  · obtain ⟨-, hsnapshot, -⟩ := (CodeBlock.create_eq_ok_iff v b).mp hcreate
    rw [CodeBlock.fix_injectFault (CodeBlock.validCodeword_of_create hcreate) k]
    exact ⟨rfl, hsnapshot.symm⟩

end Sys2Proof.Machine
end

section
/-! The signature of a position (spec/30_encoding.md rule R62): the word of its check memberships is the syndrome of the
word with that bit alone, and the syndrome of a flip there in any valid codeword. -/

namespace Sys2Proof.Machine

/-- The syndrome of a flip in a valid codeword is the flipped position (rule R62). -/
theorem syn_fst_flipBit_of_validCodeword {c : Word} (h : validCodeword c = true) (k : Position) :
    (syn (flipBit c k)).1 = k := by
  rw [syn_flipBit, (validCodeword_iff c).mp h, BitVec.zero_xor]

theorem validCodeword_zero : validCodeword 0x0000#16 = true := by decide

theorem flipBit_zero (k : Position) : flipBit 0x0000#16 k = oneHot k := by
  rw [flipBit, BitVec.zero_xor]

/-- The word with one bit set has that bit's check memberships for its syndrome. -/
theorem syn_fst_oneHot_eq_memberships (k : Position) :
    (syn (oneHot k)).1 =
      BitVec.ofBool (maskD.getLsbD k.toNat) ++ BitVec.ofBool (maskC.getLsbD k.toNat) ++
        BitVec.ofBool (maskB.getLsbD k.toNat) ++ BitVec.ofBool (maskA.getLsbD k.toNat) := by
  simp only [syn, par_oneHot]

/-- A word that differs from another in one position alone is a flip there. -/
theorem eq_flipBit_of_getLsbD_ne_iff {v w : Word} {k : Position}
    (h : ∀ i < 16, (w.getLsbD i ≠ v.getLsbD i ↔ i = k.toNat)) : w = flipBit v k := by
  refine BitVec.eq_of_getLsbD_eq fun i hi => ?_
  rw [flipBit_getLsbD v k i hi]
  by_cases hik : i = k.toNat
  · rw [decide_eq_true hik, Bool.xor_true]
    exact Bool.eq_not_of_ne ((h i hi).mpr hik)
  · rw [decide_eq_false hik, Bool.xor_false]
    exact not_ne_iff.mp fun hne => hik ((h i hi).mp hne)

/-- Settles O27: the memberships of `k` are the syndrome of the zero codeword with bit `k` flipped, and a word that differs
from a valid codeword at `k` alone is a flip there; either syndrome is `k`. -/
theorem positionSignatureIsItsNumber : Obligations.PositionSignatureIsItsNumber := by
  unfold Obligations.PositionSignatureIsItsNumber
  constructor
  · intro k
    rw [← syn_fst_oneHot_eq_memberships, ← flipBit_zero]
    exact syn_fst_flipBit_of_validCodeword validCodeword_zero k
  · intro v w k hvalid hdiffer
    rw [eq_flipBit_of_getLsbD_ne_iff hdiffer]
    exact syn_fst_flipBit_of_validCodeword hvalid k

end Sys2Proof.Machine
end

section
/-! Positions at the decoder (spec/30_encoding.md rule R66): a word below 16 is the position with its number, any other is
refused, and BITAT and FLIP take their position from there. -/

namespace Sys2Proof.Machine

theorem decodePosition_word_of_lt {w : Word} (h : w.toNat < 16) :
    decodePosition (.word w) = .ok (.lit (w.setWidth 4)) := if_pos h

theorem decodePosition_word_of_ge {w : Word} (h : 16 ≤ w.toNat) :
    decodePosition (.word w) = .error (.positionOutOfRange w) := if_neg (Nat.not_lt.mpr h)

/-- BITAT decodes exactly when its position does. -/
theorem decode_bitat (a b : Source) :
    decode ⟨.bitat, [a, b]⟩ = (decodePosition b).map (Instr.bitat (decodeWord a)) := by
  simp only [decode]
  cases decodePosition b <;> rfl

/-- FLIP decodes exactly when its position does. -/
theorem decode_flip (a b : Source) :
    decode ⟨.flip, [a, b]⟩ = (decodePosition b).map (Instr.flip (decodeWord a)) := by
  simp only [decode]
  cases decodePosition b <;> rfl

/-- A step on a line that presents no operation is refused, with the decoder's reason. -/
theorem step_eq_refused_of_decode_eq_error {s : State} {d : Drive} {rest : List Drive} {e : DecodeError}
    (hpending : s.pending = d :: rest) (hdecode : decode d = .error e) : step s = .refused (.undecodable e) := by
  simp only [step, hpending, hdecode]

/-- BITAT and FLIP reject an out-of-range position word (rules R66, R102). -/
theorem decode_eq_error_of_position_ge (a : Source) {w : Word} {op : Op} (hop : op = .bitat ∨ op = .flip)
    (h : 16 ≤ w.toNat) : decode ⟨op, [a, .word w]⟩ = .error (.positionOutOfRange w) := by
  rcases hop with rfl | rfl
  · rw [decode_bitat, decodePosition_word_of_ge h, Except.map]
  · rw [decode_flip, decodePosition_word_of_ge h, Except.map]

/-- Settles O8: the range check of `decodePosition` decides, and a step passes the decoder's refusal on. -/
theorem outOfRangePositionIsRefused : Obligations.OutOfRangePositionIsRefused := by
  unfold Obligations.OutOfRangePositionIsRefused
  intro a w op hop
  refine ⟨fun hge => ?_, fun hlt => ⟨w.setWidth 4, ?_, ?_, ?_⟩⟩
  · have hdecode := decode_eq_error_of_position_ge a hop hge
    exact ⟨hdecode, fun s rest hpending => step_eq_refused_of_decode_eq_error hpending hdecode⟩
  · rw [BitVec.toNat_setWidth, Nat.mod_eq_of_lt hlt]
  · rintro rfl
    rw [decode_bitat, decodePosition_word_of_lt hlt, Except.map]
  · rintro rfl
    rw [decode_flip, decodePosition_word_of_lt hlt, Except.map]

end Sys2Proof.Machine
end

section
/-! PAR as an operation and its laws (spec/40_parity_tree.md rules R75, R78): the two operands of PAR play the same part, so
each law in the word is a law in the mask. -/

namespace Sys2Proof.Machine

theorem par_eq_decide_popcount (w m : Word) : par w m = decide (popcount (w &&& m) % 2 = 1) := rfl

theorem par_comm (w m : Word) : par w m = par m w := by
  rw [par, BitVec.and_comm, ← par]

/-- PAR is linear in the mask (rule R78). -/
theorem par_mask_xor (u m n : Word) : par u (m ^^^ n) = (par u m ^^ par u n) := by
  rw [par_comm, par_xor, par_comm m, par_comm n]

/-- The all-zero word is even in every group (rule R75). -/
theorem par_zero_word (m : Word) : par 0x0000#16 m = false := by
  rw [par, BitVec.zero_and]
  rfl

/-- The empty group is even in every word (rule R75). -/
theorem par_zero_mask (w : Word) : par w 0x0000#16 = false := by
  rw [par_comm, par_zero_word]

/-- In the all-ones word every member of the group counts (rule R75). -/
theorem par_allOnes_word (m : Word) : par 0xFFFF#16 m = decide (popcount m % 2 = 1) := by
  rw [par_eq_decide_popcount, show 0xFFFF#16 = BitVec.allOnes 16 from rfl, BitVec.allOnes_and]

/-- The five masks of rule R76 have 8, 8, 8, 8 and 16 members. -/
theorem popcount_groupMasks :
    popcount maskA = 8 ∧ popcount maskB = 8 ∧ popcount maskC = 8 ∧ popcount maskD = 8 ∧ popcount maskAll = 16 := by
  decide

/-- Every group of rule R76 has an even number of members. -/
theorem popcount_groupMask_even :
    ∀ m ∈ [maskA, maskB, maskC, maskD, maskAll], popcount m % 2 = 0 := by
  obtain ⟨hA, hB, hC, hD, hAll⟩ := popcount_groupMasks
  simp [hA, hB, hC, hD, hAll]

/-- The parity position is set by an or with `PAR(w, group) << k` (rules R78, R88). -/
theorem setParity_eq_or_ite_oneHot (w group : Word) (k : Position) :
    setParity w group k.toNat = w ||| (if par w group then oneHot k else 0x0000#16) := by
  rw [setParity]
  cases par w group with
  | false => simp [bitShift]
  | true => rfl

/-- PAR on readable operands binds the parity and does nothing else (rule R75). -/
theorem exec_par_of_reads {s : State} {w m : Operand Word} {wv mv : Word} (hw : s.readWord w = .ok wv)
    (hm : s.readWord m = .ok mv) : exec (.par w m) s = .next (s.bind [.bit (par wv mv)]) := by
  rw [exec, execPar, hw, supply_ok, hm, supply_ok, finish]

/-- Settles O12: linearity in the word and its consequences stand above; the mask laws follow by symmetry, and the last law
is the parity position set as ENC sets it. -/
theorem parLaws : Obligations.ParLaws := by
  unfold Obligations.ParLaws
  refine ⟨par_xor, par_mask_xor, par_zero_word, par_zero_mask, par_oneHot, fun u m k => par_flipBit u k m, ?_⟩
  intro u m k hmember hzero
  have heven := par_setParity_self hzero hmember
  rwa [setParity_eq_or_ite_oneHot] at heven

/-- Settles O10: the operation binds the parity of the masked bits; the corner cases are those of the zero word, the empty
group and the all-ones word, where the group's size decides. -/
theorem parBindsGroupParity : Obligations.ParBindsGroupParity := by
  unfold Obligations.ParBindsGroupParity
  obtain ⟨hA, hB, hC, hD, hAll⟩ := popcount_groupMasks
  refine ⟨fun s w m wv mv hw hm => exec_par_of_reads hw hm, par_zero_mask, par_zero_word, par_allOnes_word,
    hA, hB, hC, hD, hAll, fun m hm => ?_, by decide⟩
  rw [par_allOnes_word, popcount_groupMask_even m hm]
  rfl

end Sys2Proof.Machine
end

section
/-! SPREAD (spec/41_encoder.md rules R85, R86): payload bit `i` and the data position `DATA_POS[i]` hold the same bit, in
SPREAD and in DEC, and the laws of SPREAD follow from the bits. -/

namespace Sys2Proof.Machine

/-- Payload bit `i` stands at the position `DATA_POS[i]` (rules R60, R85). -/
theorem spread_getLsbD_dataPos (p : Payload) : ∀ i < 11, (spread p).getLsbD (dataPos.getD i 0) = p.getLsbD i := by
  intro i hi
  rw [spread_getLsbD]
  interval_cases i <;> simp [dataPos, -BitVec.getLsbD_eq_getElem]

/-- DEC takes payload bit `i` from the position `DATA_POS[i]` (rule R61). -/
theorem dec_getLsbD_dataPos (c : Word) : ∀ i < 11, (dec c).getLsbD i = c.getLsbD (dataPos.getD i 0) := by
  intro i hi
  rw [dec_getLsbD]
  interval_cases i <;> simp [dataPos, -BitVec.getLsbD_eq_getElem]

/-- Every data position is `DATA_POS[i]` for some payload bit `i`. -/
theorem exists_dataPos_getD_eq : ∀ j ∈ dataPos, ∃ i < 11, dataPos.getD i 0 = j := by decide

/-- SPREAD is the concatenation of rule R60. -/
theorem spread_eq_spreadWires (p : Payload) : spread p = spreadWires p := by
  refine BitVec.eq_of_getLsbD_eq fun j hj => ?_
  rw [spread_getLsbD, spreadWires]
  -- `getLsbD_append` needs the width as the sum of the widths joined
  change _ = BitVec.getLsbD (w := 7 + 1 + 3 + 1 + 1 + 3) _ _
  simp only [BitVec.getLsbD_append]
  interval_cases j <;> simp [-BitVec.getLsbD_eq_getElem]

theorem spread_and_maskParity (p : Payload) : spread p &&& maskParity = 0x0000#16 := by
  refine BitVec.eq_of_getLsbD_eq fun j hj => ?_
  rw [BitVec.getLsbD_and, maskParity_getLsbD hj, BitVec.getLsbD_zero]
  by_cases hdata : j ∈ dataPos
  · rw [decide_eq_true hdata, Bool.not_true, Bool.and_false]
  · rw [spread_getLsbD_of_not_mem_dataPos p hdata, Bool.false_and]

theorem spread_xor (p q : Payload) : spread (p ^^^ q) = spread p ^^^ spread q := by
  refine BitVec.eq_of_getLsbD_eq fun j _ => ?_
  rw [BitVec.getLsbD_xor]
  by_cases hdata : j ∈ dataPos
  · obtain ⟨i, hi, rfl⟩ := exists_dataPos_getD_eq j hdata
    simp only [spread_getLsbD_dataPos _ i hi, BitVec.getLsbD_xor]
  · simp only [spread_getLsbD_of_not_mem_dataPos _ hdata, Bool.xor_false]

theorem dec_xor (u v : Word) : dec (u ^^^ v) = dec u ^^^ dec v := by
  refine BitVec.eq_of_getLsbD_eq fun i hi => ?_
  simp only [BitVec.getLsbD_xor, dec_getLsbD_dataPos _ i hi]

theorem spread_injective {p q : Payload} (h : spread p = spread q) : p = q := by
  rw [← dec_spread p, h, dec_spread]

/-- SPREAD moves the 1-bits and adds none. -/
theorem popcount_spread (p : Payload) : popcount (spread p) = popcount p := by
  simp [popcount, popcountBelow, spread_getLsbD, -BitVec.getLsbD_eq_getElem]

/-- SPREAD on a readable operand binds the spread word and does nothing else (rule R85). -/
theorem exec_spread_of_read {s : State} {p : Operand Payload} {pv : Payload} (hp : s.readPayload p = .ok pv) :
    exec (.spread p) s = .next (s.bind [.word (spread pv)]) := by
  rw [exec, execSpread, hp, supply_ok, finish]

/-- Settles O13: the operation binds the spread word, which is the concatenation of rule R60; the bits are read off at the
data positions and at the others. -/
theorem spreadBindsScatteredPayload : Obligations.SpreadBindsScatteredPayload := by
  unfold Obligations.SpreadBindsScatteredPayload
  refine ⟨fun s p pv hp => ?_, fun pv => ⟨spread_getLsbD_dataPos pv, fun k hk => ?_⟩, by decide, by decide, by decide,
    by decide, by decide⟩
  · rw [exec_spread_of_read hp, spread_eq_spreadWires]
    rfl
  · exact spread_getLsbD_of_not_mem_dataPos pv (by revert k; decide)

/-- Settles O14: the bit laws of SPREAD above; injectivity is that DEC undoes SPREAD. -/
theorem spreadLaws : Obligations.SpreadLaws := by
  unfold Obligations.SpreadLaws
  exact ⟨spread_and_maskParity, spread_xor, fun _ _ => spread_injective, popcount_spread, dec_spread⟩

end Sys2Proof.Machine
end

section
/-! Valid codewords (spec/41_encoder.md rules R91 to R93): they are closed under exclusive or, and the five checks determine
the parity positions from the data positions. So a valid codeword is determined by its payload, and is what ENC gives for
that payload; linearity of ENC follows. -/

namespace Sys2Proof.Machine

/-- ENC answers every payload below 2048 (rule R88). -/
theorem enc_of_lt {v : Nat} (hv : v < 2048) : enc v = .ok (encodePayloadBits (BitVec.ofNat 11 v)) :=
  (enc_eq_ok_iff v _).mpr ⟨hv, rfl⟩

/-- The checks are linear, so the exclusive or of valid codewords is valid (rule R94). -/
theorem validCodeword_xor {u v : Word} (hu : validCodeword u = true) (hv : validCodeword v = true) :
    validCodeword (u ^^^ v) = true := by
  rw [validCodeword_iff, syn_eq_zero_iff] at *
  simp [par_xor, hu, hv]

/-- A word whose bits in a group are all 0 but for one position has that bit for its parity. -/
theorem par_eq_getLsbD_of_lone {w group : Word} {k : Nat} (hk : k < 16) (hmember : group.getLsbD k = true)
    (hzero : ∀ i < 16, i ≠ k → group.getLsbD i = true → w.getLsbD i = false) : par w group = w.getLsbD k := by
  have hlone : ∀ i < 16, i ≠ k → (w &&& group).getLsbD i = false := by
    intro i hi hik
    rw [BitVec.getLsbD_and]
    cases hgroup : group.getLsbD i with
    | false => exact Bool.and_false _
    | true => rw [hzero i hi hik hgroup, Bool.false_and]
  rw [par, xorReduce_eq_xorBelow, xorBelow_of_lone_bit _ k hlone 16 (Nat.le_refl 16), BitVec.getLsbD_and, hmember,
    decide_eq_true hk, Bool.true_and, Bool.and_true]

/-- The four group parity steps of ENC: each group with the position that takes its parity (rule R88, steps 2 to 5). -/
def groupSteps : List (Word × Nat) := [(maskA, 1), (maskB, 2), (maskC, 4), (maskD, 8)]

/-- A group holds its own parity position. -/
theorem groupSteps_position : ∀ step ∈ groupSteps, step.2 < 16 ∧ step.1.getLsbD step.2 = true := by decide

/-- Beside its own parity position a group holds data positions only (rules R56, R89). -/
theorem groupSteps_member : ∀ step ∈ groupSteps, ∀ i < 16, step.1.getLsbD i = true → i = step.2 ∨ i ∈ dataPos := by
  decide

/-- A position is a data position, the parity position of a group, or 0. -/
theorem position_cases : ∀ i < 16, i ∈ dataPos ∨ (∃ step ∈ groupSteps, i = step.2) ∨ i = 0 := by decide

/-- All five checks pass on a valid codeword, and only there. -/
theorem validCodeword_iff_par (c : Word) :
    validCodeword c = true ↔ (∀ step ∈ groupSteps, par c step.1 = false) ∧ par c maskAll = false := by
  simp [validCodeword_iff, syn_eq_zero_iff, groupSteps, and_assoc]

/-- A valid codeword whose payload is 0 is 0: the group checks leave no parity bit, and then the overall check leaves no
meta bit. -/
theorem eq_zero_of_validCodeword_of_dec_eq_zero {c : Word} (hvalid : validCodeword c = true)
    (hdec : dec c = 0#11) : c = 0x0000#16 := by
  obtain ⟨hgroup, hall⟩ := (validCodeword_iff_par c).mp hvalid
  have hdata : ∀ j ∈ dataPos, c.getLsbD j = false := by
    intro j hj
    obtain ⟨i, hi, rfl⟩ := exists_dataPos_getD_eq j hj
    rw [← dec_getLsbD_dataPos c i hi, hdec, BitVec.getLsbD_zero]
  have hparity : ∀ step ∈ groupSteps, c.getLsbD step.2 = false := by
    intro step hstep
    obtain ⟨hposition, hmember⟩ := groupSteps_position step hstep
    rw [← hgroup step hstep]
    exact (par_eq_getLsbD_of_lone hposition hmember fun i hi hne hi' =>
      hdata i ((groupSteps_member step hstep i hi hi').resolve_left hne)).symm
  have hrest : ∀ i < 16, i ≠ 0 → c.getLsbD i = false := by
    intro i hi hne
    rcases position_cases i hi with hi' | ⟨step, hstep, rfl⟩ | rfl
    · exact hdata i hi'
    · exact hparity step hstep
    · exact absurd rfl hne
  have hmeta : c.getLsbD 0 = false := by
    rw [← hall]
    exact (par_eq_getLsbD_of_lone (by decide) (maskAll_getLsbD (by decide)) fun i hi hne _ => hrest i hi hne).symm
  refine BitVec.eq_of_getLsbD_eq fun i hi => ?_
  rw [BitVec.getLsbD_zero]
  by_cases hi0 : i = 0
  · rw [hi0, hmeta]
  · exact hrest i hi hi0

/-- A valid codeword is determined by its payload. -/
theorem eq_of_validCodeword_of_dec_eq {u v : Word} (hu : validCodeword u = true) (hv : validCodeword v = true)
    (hdec : dec u = dec v) : u = v := by
  have hdiff : dec (u ^^^ v) = 0#11 := by rw [dec_xor, hdec, BitVec.xor_self]
  exact BitVec.xor_eq_zero_iff.mp (eq_zero_of_validCodeword_of_dec_eq_zero (validCodeword_xor hu hv) hdiff)

/-- A valid codeword is the codeword of its payload (rule R93). -/
theorem encodePayloadBits_dec_of_validCodeword {c : Word} (h : validCodeword c = true) :
    encodePayloadBits (dec c) = c :=
  eq_of_validCodeword_of_dec_eq (validCodeword_encodePayloadBits _) h (dec_encodePayloadBits _)

/-- The six steps are linear (rule R92): the exclusive or of two codewords is the valid codeword of the exclusive or of
their payloads. -/
theorem encodePayloadBits_xor (p q : Payload) :
    encodePayloadBits (p ^^^ q) = encodePayloadBits p ^^^ encodePayloadBits q := by
  refine eq_of_validCodeword_of_dec_eq (validCodeword_encodePayloadBits _)
    (validCodeword_xor (validCodeword_encodePayloadBits p) (validCodeword_encodePayloadBits q)) ?_
  simp only [dec_xor, dec_encodePayloadBits]

/-- Settles O18: the codeword of a payload is valid. -/
theorem encOutputPassesEveryCheck : Obligations.EncOutputPassesEveryCheck := by
  unfold Obligations.EncOutputPassesEveryCheck
  intro v hv
  exact ⟨_, enc_of_lt hv, (validCodeword_iff _).mp (validCodeword_encodePayloadBits _)⟩

/-- Settles O19: the six steps are linear, and payloads below 2048 are closed under exclusive or. -/
theorem encIsLinear : Obligations.EncIsLinear := by
  unfold Obligations.EncIsLinear
  refine ⟨fun p q hp hq => ⟨_, _, enc_of_lt hp, enc_of_lt hq, ?_⟩, by decide, by decide⟩
  rw [enc_of_lt (Nat.xor_lt_two_pow (n := 11) hp hq), BitVec.ofNat_xor, encodePayloadBits_xor]

/-- Settles O20: a valid codeword is the codeword of its payload, and DEC takes the payload back. -/
theorem validCodewordsAreExactlyEncodings : Obligations.ValidCodewordsAreExactlyEncodings := by
  unfold Obligations.ValidCodewordsAreExactlyEncodings
  refine ⟨fun c => ⟨fun hsyn => ⟨(dec c).toNat, (dec c).isLt, ?_⟩, ?_⟩, fun u v hu hv henc => ?_⟩
  · rw [enc_of_lt (dec c).isLt, BitVec.ofNat_toNat, BitVec.setWidth_eq,
      encodePayloadBits_dec_of_validCodeword ((validCodeword_iff c).mpr hsyn)]
  · rintro ⟨v, hv, henc⟩
    obtain ⟨-, rfl⟩ := (enc_eq_ok_iff v c).mp henc
    exact (validCodeword_iff _).mp (validCodeword_encodePayloadBits _)
  · rw [enc_of_lt hu, enc_of_lt hv, Except.ok.injEq] at henc
    have hpayload : BitVec.ofNat 11 u = BitVec.ofNat 11 v := by
      rw [← dec_encodePayloadBits (BitVec.ofNat 11 u), henc, dec_encodePayloadBits]
    have hmod := congrArg BitVec.toNat hpayload
    rwa [BitVec.toNat_ofNat, BitVec.toNat_ofNat, Nat.mod_eq_of_lt hu, Nat.mod_eq_of_lt hv] at hmod

end Sys2Proof.Machine
end

section
/-! ENC as an operation and its parity steps (spec/41_encoder.md rules R88 to R90): the group steps do not read each other's
positions, so they commute and the four parities can be taken from the spread word; the meta bit reads all four. -/

namespace Sys2Proof.Machine

/-- ENC binds the codeword of a payload below 2048 and does nothing else (rule R88). -/
theorem exec_enc_of_read_lt {s : State} {v : Operand Nat} {n : Nat} (hv : s.readInteger v = .ok n) (hn : n < 2048) :
    exec (.enc v) s = .next (s.bind [.word (encodePayloadBits (BitVec.ofNat 11 n))]) := by
  simp only [exec, execEnc, hv, supply_ok, enc_of_lt hn, finish]

/-- ENC faults on every other integer, with that integer (rules R88, R150). -/
theorem exec_enc_of_read_ge {s : State} {v : Operand Nat} {n : Nat} (hv : s.readInteger v = .ok n) (hn : 2048 ≤ n) :
    exec (.enc v) s = .fault (.invalidPayload n) := by
  have herror : enc n = .error (.invalidPayload n) := (enc_eq_error_iff n _).mpr ⟨hn, rfl⟩
  simp only [exec, execEnc, hv, supply_ok, herror, raiseInvalidPayload]

/-- A parity step with the parity written out as a count of 1-bits (rules R9, R88). -/
theorem setParity_eq_or_ite_popcount (w group : Word) (k : Position) :
    setParity w group k.toNat = w ||| (if popcount (w &&& group) % 2 = 1 then oneHot k else 0x0000#16) := by
  simp only [setParity_eq_or_ite_oneHot, par_eq_decide_popcount, decide_eq_true_eq]

/-- The wire `invalid_o` is the range check (rule R30). -/
theorem encoderPorts_invalid_o {width : Nat} (payload : BitVec width) :
    (encoderPorts payload).invalid_o = decide (2048 ≤ payload.toNat) := by
  unfold encoderPorts Config.payloadBound
  split
  · exact (decide_eq_false (by omega)).symm
  · exact (decide_eq_true (by omega)).symm

/-- Settles O15: the range check decides; below the bound the six words are those of the model's six parity steps. -/
theorem encBindsCodewordOrFaults : Obligations.EncBindsCodewordOrFaults := by
  unfold Obligations.EncBindsCodewordOrFaults
  refine ⟨fun s v n hv hn => ?_, fun s v n hv hn => exec_enc_of_read_ge hv hn, by decide, by decide, by decide,
    by decide, by decide, encoderPorts_invalid_o⟩
  exact ⟨_, _, _, _, _, _, rfl, setParity_eq_or_ite_popcount _ maskA 1#4, setParity_eq_or_ite_popcount _ maskB 2#4,
    setParity_eq_or_ite_popcount _ maskC 4#4, setParity_eq_or_ite_popcount _ maskD 8#4,
    setParity_eq_or_ite_popcount _ maskAll 0#4, exec_enc_of_read_lt hv hn⟩

/-- A step whose group is even changes nothing. -/
theorem setParity_of_par_eq_false {w group : Word} (position : Nat) (h : par w group = false) :
    setParity w group position = w := by
  rw [setParity, h]
  simp [bitShift]

/-- Setting a parity position that holds 0 adds the parity set to every group that holds the position. -/
theorem par_setParity_of_mem {w m : Word} {j : Nat} (group : Word) (hj : j < 16) (hw : w.getLsbD j = false)
    (hm : m.getLsbD j = true) : par (setParity w group j) m = (par w m ^^ par w group) := by
  obtain ⟨k, rfl⟩ : ∃ k : Position, k.toNat = j := ⟨BitVec.ofNatLT j hj, rfl⟩
  rw [setParity_eq_ite_flipBit group hw]
  cases par w group with
  | false => simp
  | true => simp [par_flipBit, hm]

/-- SPREAD leaves every parity position 0 (rule R85). -/
theorem spread_getLsbD_parityPositions (p : Payload) :
    (spread p).getLsbD 1 = false ∧ (spread p).getLsbD 2 = false ∧ (spread p).getLsbD 4 = false ∧
      (spread p).getLsbD 8 = false ∧ (spread p).getLsbD 0 = false :=
  ⟨spread_getLsbD_of_not_mem_dataPos p (by decide), spread_getLsbD_of_not_mem_dataPos p (by decide),
    spread_getLsbD_of_not_mem_dataPos p (by decide), spread_getLsbD_of_not_mem_dataPos p (by decide),
    spread_getLsbD_of_not_mem_dataPos p (by decide)⟩

/-- The meta bit of a payload: the overall parity of the spread word and its four group parities (rule R89). -/
def metaParity (w : Word) : Bool := par w maskAll ^^ par w maskA ^^ par w maskB ^^ par w maskC ^^ par w maskD

/-- The overall parity after the four group steps is the meta bit (rule R89). -/
theorem par_maskAll_after_groupSteps (p : Payload) :
    par (setParity (setParity (setParity (setParity (spread p) maskA 1) maskB 2) maskC 4) maskD 8) maskAll =
      metaParity (spread p) := by
  obtain ⟨h1, h2, h4, h8, -⟩ := spread_getLsbD_parityPositions p
  have hall : ∀ j < 16, maskAll.getLsbD j = true := fun _ => maskAll_getLsbD
  rw [par_setParity_of_mem maskD (by decide) ?_ (hall 8 (by decide)),
    par_setParity_of_mem maskC (by decide) ?_ (hall 4 (by decide)),
    par_setParity_of_mem maskB (by decide) ?_ (hall 2 (by decide)),
    par_setParity_of_mem maskA (by decide) h1 (hall 1 (by decide))]
  · iterate 6 rw [par_setParity_of_not_mem _ _ (by decide)]
    rfl
  · rwa [setParity_getLsbD_of_ne (by decide)]
  · rwa [setParity_getLsbD_of_ne (by decide), setParity_getLsbD_of_ne (by decide)]
  · rwa [setParity_getLsbD_of_ne (by decide), setParity_getLsbD_of_ne (by decide), setParity_getLsbD_of_ne (by decide)]

/-- The parallel form of the encoder (rule R89): no group step reads a position that another one writes. -/
theorem encodePayloadBits_eq_parallel (p : Payload) :
    encodePayloadBits p =
      spread p ||| bitShift 16 (par (spread p) maskA) 1 ||| bitShift 16 (par (spread p) maskB) 2 |||
        bitShift 16 (par (spread p) maskC) 4 ||| bitShift 16 (par (spread p) maskD) 8 |||
          bitShift 16 (metaParity (spread p)) 0 := by
  have hB : par (setParity (spread p) maskA 1) maskB = par (spread p) maskB := par_setParity_of_not_mem _ _ (by decide)
  have hC : par (setParity (setParity (spread p) maskA 1) maskB 2) maskC = par (spread p) maskC := by
    iterate 2 rw [par_setParity_of_not_mem _ _ (by decide)]
  have hD : par (setParity (setParity (setParity (spread p) maskA 1) maskB 2) maskC 4) maskD = par (spread p) maskD := by
    iterate 3 rw [par_setParity_of_not_mem _ _ (by decide)]
  rw [← par_maskAll_after_groupSteps, ← hD, ← hC, ← hB]
  rfl

/-- The parity and meta bits of a codeword, from the spread word (rule R89). -/
theorem encodePayloadBits_getLsbD_parityPositions (p : Payload) :
    (encodePayloadBits p).getLsbD 1 = par (spread p) maskA ∧ (encodePayloadBits p).getLsbD 2 = par (spread p) maskB ∧
      (encodePayloadBits p).getLsbD 4 = par (spread p) maskC ∧ (encodePayloadBits p).getLsbD 8 = par (spread p) maskD ∧
      (encodePayloadBits p).getLsbD 0 = metaParity (spread p) := by
  obtain ⟨h1, h2, h4, h8, h0⟩ := spread_getLsbD_parityPositions p
  simp [encodePayloadBits_eq_parallel, bitShift_getLsbD, h1, h2, h4, h8, h0, -BitVec.getLsbD_eq_getElem]

/-- The meta bit is the parity of the positions that lie in an even number of the groups A to D (rule R90). -/
theorem metaParity_eq_par (w : Word) : metaParity w = par w 0x9669#16 := by
  rw [show (0x9669#16 : Word) = maskAll ^^^ maskA ^^^ maskB ^^^ maskC ^^^ maskD by decide]
  simp only [par_mask_xor, metaParity]

/-- Settles O17: each parity bit is the parity of the payload bits that SPREAD puts into its group, the meta bit that of
those in an even number of groups. -/
theorem encParityEquations : Obligations.EncParityEquations := by
  unfold Obligations.EncParityEquations
  intro p
  obtain ⟨h1, h2, h4, h8, h0⟩ := encodePayloadBits_getLsbD_parityPositions p
  refine ⟨p.getLsbD, fun _ => rfl, ?_, ?_, ?_, ?_, ?_⟩
  · rw [h1, par_eq_xor_of_bits]
    simp [spread_getLsbD, maskA, -BitVec.getLsbD_eq_getElem]
  · rw [h2, par_eq_xor_of_bits]
    simp [spread_getLsbD, maskB, -BitVec.getLsbD_eq_getElem]
  · rw [h4, par_eq_xor_of_bits]
    simp [spread_getLsbD, maskC, -BitVec.getLsbD_eq_getElem]
  · rw [h8, par_eq_xor_of_bits]
    simp [spread_getLsbD, maskD, -BitVec.getLsbD_eq_getElem]
  · rw [h0, metaParity_eq_par, par_eq_xor_of_bits]
    simp [spread_getLsbD, -BitVec.getLsbD_eq_getElem]

/-- Two parity steps commute when neither group holds the other's position. -/
theorem setParity_comm {g h : Word} {i j : Nat} (w : Word) (hg : g.getLsbD j = false) (hh : h.getLsbD i = false) :
    setParity (setParity w g i) h j = setParity (setParity w h j) g i := by
  rw [setParity, par_setParity_of_not_mem w g hh, setParity, setParity, par_setParity_of_not_mem w h hg, setParity,
    BitVec.or_assoc, BitVec.or_assoc, BitVec.or_comm (bitShift 16 (par w g) i)]

/-- No group holds the parity position of another (rule R89). -/
theorem groupSteps_getLsbD_of_ne : ∀ a ∈ groupSteps, ∀ b ∈ groupSteps, a ≠ b → a.1.getLsbD b.2 = false := by decide

/-- The group steps give the same word in every order (rule R89). -/
theorem foldl_setParity_of_perm_groupSteps {steps : List (Word × Nat)} (hperm : steps.Perm groupSteps) (w : Word) :
    steps.foldl (fun w step => setParity w step.1 step.2) w =
      groupSteps.foldl (fun w step => setParity w step.1 step.2) w := by
  refine hperm.foldl_eq' (fun a ha b hb z => ?_) w
  by_cases hab : a = b
  · rw [hab]
  · have ha' := hperm.mem_iff.mp ha
    have hb' := hperm.mem_iff.mp hb
    exact setParity_comm z (groupSteps_getLsbD_of_ne a ha' b hb' hab) (groupSteps_getLsbD_of_ne b hb' a ha' (Ne.symm hab))

/-- Steps whose groups are all even change nothing. -/
theorem foldl_setParity_of_par_eq_false {w : Word} (steps : List (Word × Nat))
    (h : ∀ step ∈ steps, par w step.1 = false) : steps.foldl (fun w step => setParity w step.1 step.2) w = w := by
  induction steps with
  | nil => rfl
  | cons step rest ih =>
    obtain ⟨hstep, hrest⟩ := List.forall_mem_cons.mp h
    rw [List.foldl_cons, setParity_of_par_eq_false _ hstep, ih hrest]

/-- For each group a payload of two 1-bits that lie together in every other group or in none: on it every other step does
nothing, step 6 included, and the group's own step leaves three 1-bits. -/
theorem exists_payload_odd_in_one_group :
    ∀ last ∈ groupSteps, ∃ p : Payload,
      (∀ step ∈ groupSteps ++ [(maskAll, 0)], step ≠ last → par (spread p) step.1 = false) ∧
        setParity (spread p) last.1 last.2 ≠ encodePayloadBits p := by
  simp only [groupSteps, List.forall_mem_cons, List.not_mem_nil, false_imp_iff, implies_true, and_true]
  exact ⟨⟨0x00C#11, by decide⟩, ⟨0x00A#11, by decide⟩, ⟨0x009#11, by decide⟩, ⟨0x041#11, by decide⟩⟩

/-- Settles O16: the group steps commute, so only the place of step 6 counts; when a group step comes last instead, step 6
misses the change it makes on a payload that is odd in that group alone. -/
theorem encStepOrderAndParallelForm : Obligations.EncStepOrderAndParallelForm := by
  unfold Obligations.EncStepOrderAndParallelForm
  refine ⟨fun steps hperm hlast p => ?_, fun p => ⟨_, _, _, _, _, rfl, rfl, rfl, rfl, rfl, encodePayloadBits_eq_parallel p⟩,
    fun steps hperm hlast => ?_⟩
  · obtain ⟨before, rfl⟩ := List.getLast?_eq_some_iff.mp hlast
    have hbefore : before.Perm groupSteps := (List.perm_append_right_iff [(maskAll, 0)]).mp hperm
    rw [List.foldl_append, foldl_setParity_of_perm_groupSteps hbefore]
    rfl
  · rcases steps.eq_nil_or_concat' with rfl | ⟨before, last, rfl⟩
    · exact absurd hperm.length_eq (by decide)
    have hne : last ≠ (maskAll, 0) := by simpa using hlast
    have hnodup := hperm.nodup_iff.mpr (by decide)
    have hmem : ∀ step ∈ before ++ [last], step ∈ groupSteps ++ [(maskAll, 0)] := fun _ => hperm.mem_iff.mp
    have hgroup : last ∈ groupSteps := by simpa [hne] using hmem last (by simp)
    obtain ⟨p, heven, hdiffer⟩ := exists_payload_odd_in_one_group last hgroup
    refine ⟨p, ?_⟩
    rw [List.foldl_append, foldl_setParity_of_par_eq_false before fun step hstep => heven step ?_ ?_]
    · exact hdiffer
    · exact hmem step (by simp [hstep])
    · rintro rfl
      exact (List.nodup_append.mp hnodup).2.2 step hstep step (by simp) rfl

end Sys2Proof.Machine
end

section
/-! BITAT and FLIP (spec/42_bit_utilities.md): the selected bit is a test against the one-hot word, a flip is the exclusive
or with it, and a payload bit is inverted exactly when the flip is at its data position. -/

namespace Sys2Proof.Machine

theorem oneHot_eq_twoPow (k : Position) : oneHot k = BitVec.twoPow 16 k.toNat := rfl

theorem oneHot_ne_zero : ∀ k : Position, oneHot k ≠ 0x0000#16 := by decide

/-- `w[k]` is 1 exactly when `w & (1 << k)` is not 0 (rule R100). -/
theorem bitAt_eq_decide_and_oneHot_ne_zero (w : Word) (k : Position) :
    bitAt w k = decide (w &&& oneHot k ≠ 0x0000#16) := by
  rw [oneHot_eq_twoPow, BitVec.and_twoPow, ← oneHot_eq_twoPow, bitAt]
  cases w.getLsbD k.toNat with
  | false => simp
  | true => simp [oneHot_ne_zero k]

/-- Position 15 is the most significant bit (rule R100). -/
theorem bitAt_fifteen (w : Word) : bitAt w 15#4 = w.msb := (BitVec.msb_eq_getLsbD_last w).symm

theorem bitAt_zero_word (k : Position) : bitAt 0x0000#16 k = false := BitVec.getLsbD_zero

theorem bitAt_allOnes_word (k : Position) : bitAt 0xFFFF#16 k = true := maskAll_getLsbD k.isLt

/-- BITAT on readable operands binds the selected bit and does nothing else (rule R100). -/
theorem exec_bitat_of_reads {s : State} {w : Operand Word} {k : Operand Position} {wv : Word} {kv : Position}
    (hw : s.readWord w = .ok wv) (hk : s.readPosition k = .ok kv) :
    exec (.bitat w k) s = .next (s.bind [.bit (bitAt wv kv)]) := by
  rw [exec, execBitat, hw, supply_ok, hk, supply_ok, finish]

/-- FLIP on readable operands binds the flipped word and does nothing else (rule R103). -/
theorem exec_flip_of_reads {s : State} {c : Operand Word} {k : Operand Position} {cv : Word} {kv : Position}
    (hc : s.readWord c = .ok cv) (hk : s.readPosition k = .ok kv) :
    exec (.flip c k) s = .next (s.bind [.word (flipBit cv kv)]) := by
  rw [exec, execFlip, hc, supply_ok, hk, supply_ok, finish]

/-- A flip changes its own position and no other (rule R104). -/
theorem flipBit_getLsbD_ne_iff (c : Word) (k : Position) {i : Nat} (hi : i < 16) :
    (flipBit c k).getLsbD i ≠ c.getLsbD i ↔ i = k.toNat := by
  rw [flipBit_getLsbD c k i hi]
  by_cases hik : i = k.toNat <;> simp [hik]

theorem flipBit_ne_self (c : Word) (k : Position) : flipBit c k ≠ c := fun heq =>
  (flipBit_getLsbD_ne_iff c k k.isLt).mpr rfl (by rw [heq])

/-- Flips commute (rule R104). -/
theorem flipBit_comm (c : Word) (j k : Position) : flipBit (flipBit c j) k = flipBit (flipBit c k) j := by
  simp only [flipBit, BitVec.xor_assoc, BitVec.xor_comm (oneHot j)]

/-- A flip inverts the overall parity (rule R104). -/
theorem par_maskAll_flipBit (c : Word) (k : Position) : par (flipBit c k) maskAll = !(par c maskAll) := by
  rw [par_flipBit, maskAll_getLsbD k.isLt, Bool.xor_true]

theorem dataPos_getD_lt : ∀ i < 11, dataPos.getD i 0 < 16 := by decide

theorem dataPos_getD_injective : ∀ i < 11, ∀ j < 11, dataPos.getD i 0 = dataPos.getD j 0 → i = j := by decide

/-- A flip inverts the payload bit whose data position it is at, and no other (rule R104). -/
theorem dec_flipBit_getLsbD (c : Word) (k : Position) {i : Nat} (hi : i < 11) :
    (dec (flipBit c k)).getLsbD i = ((dec c).getLsbD i ^^ decide (dataPos.getD i 0 = k.toNat)) := by
  rw [dec_getLsbD_dataPos _ i hi, dec_getLsbD_dataPos _ i hi, flipBit_getLsbD c k _ (dataPos_getD_lt i hi)]

/-- A flip at a position that holds no payload bit leaves the payload as it was (rule R104). -/
theorem dec_flipBit_of_not_mem_dataPos (c : Word) {k : Position} (hk : k.toNat ∉ dataPos) :
    dec (flipBit c k) = dec c := by
  refine dec_eq_of_dataPos fun j hj => ?_
  have hjlt : ∀ j ∈ dataPos, j < 16 := by decide
  rw [flipBit_getLsbD c k j (hjlt j hj), decide_eq_false (ne_of_mem_of_not_mem hj hk), Bool.xor_false]

/-- A flip at `DATA_POS[i]` inverts payload bit `i` (rule R104). -/
theorem dec_flipBit_of_dataPos (c : Word) {k : Position} {i : Nat} (hi : i < 11) (hk : dataPos.getD i 0 = k.toNat) :
    dec (flipBit c k) = dec c ^^^ (1#11 <<< i) := by
  refine BitVec.eq_of_getLsbD_eq fun j hj => ?_
  have hsame : dataPos.getD j 0 = k.toNat ↔ i = j :=
    ⟨fun h => dataPos_getD_injective i hi j hj (hk.trans h.symm), fun h => h ▸ hk⟩
  rw [dec_flipBit_getLsbD c k hj, BitVec.getLsbD_xor, ← BitVec.twoPow_eq, BitVec.getLsbD_twoPow, decide_eq_true hi,
    Bool.true_and, decide_eq_decide.mpr hsame]

/-- Settles O22: the operation binds `w[k]`, which is the test of rule R100; the corner cases are bits of `w` and of the two
constant words. -/
theorem bitatBindsSelectedBit : Obligations.BitatBindsSelectedBit := by
  unfold Obligations.BitatBindsSelectedBit
  refine ⟨fun s w k wv kv hw hk => ?_, fun w => ⟨rfl, bitAt_fifteen w⟩,
    fun k => ⟨bitAt_zero_word k, bitAt_allOnes_word k⟩, by decide, by decide⟩
  rw [exec_bitat_of_reads hw hk, bitAt_eq_decide_and_oneHot_ne_zero]
  rfl

/-- Settles O23: the operation binds the exclusive or with the one-hot word, whose bits give the rest. -/
theorem flipBindsToggledWord : Obligations.FlipBindsToggledWord := by
  unfold Obligations.FlipBindsToggledWord
  exact ⟨fun s c k cv kv hc hk => exec_flip_of_reads hc hk,
    fun c k => ⟨flipBit_flipBit c k, flipBit_ne_self c k, flipBit_getLsbD c k⟩, by decide⟩

/-- Settles O24: the laws above, with the parity and syndrome laws of a flip; the parity positions are those that hold no
payload bit. -/
theorem flipLaws : Obligations.FlipLaws := by
  unfold Obligations.FlipLaws
  intro c j k
  have hparity : ∀ n ∈ [0, 1, 2, 4, 8], n ∉ dataPos := by decide
  exact ⟨fun i hi => flipBit_getLsbD_ne_iff c k hi, flipBit_flipBit c k, flipBit_comm c j k, par_maskAll_flipBit c k,
    par_flipBit c k, syn_flipBit c k, fun hk => dec_flipBit_of_not_mem_dataPos c (hparity _ hk),
    fun i hi hk => dec_flipBit_of_dataPos c hi hk⟩

end Sys2Proof.Machine
end

section
/-! SYN (spec/43_syndrome_and_corrector.md rules R110, R111): the gate tree of a `parity_tree` is PAR, SYN is linear, and
each further flip adds its position to the syndrome and inverts the overall parity. -/

namespace Sys2Proof.Machine

/-- A gate tree gives the parity of the wires it spans: what stands below its end and not below its start. -/
theorem xorTree_eq_xorBelow (w : Word) (depth start : Nat) :
    xorTree w depth start = (xorBelow w start ^^ xorBelow w (start + 2 ^ depth)) := by
  induction depth generalizing start with
  | zero => simp [xorTree, xorBelow]
  | succ depth ih =>
    have hend : start + 2 ^ depth + 2 ^ depth = start + 2 ^ (depth + 1) := by omega
    rw [xorTree, ih, ih, hend, Bool.xor_assoc, ← Bool.xor_assoc (xorBelow w (start + 2 ^ depth)), Bool.xor_self,
      Bool.false_xor]

/-- The block `parity_tree` computes PAR (rule R77). -/
theorem parityTreePort_eq_par (mask word : Word) : parityTreePort mask word = par word mask := by
  rw [parityTreePort, xorTree_eq_xorBelow, par, xorReduce_eq_xorBelow]
  exact Bool.false_xor _

/-- The signals `syndrome_o` and `parity_all_o` are SYN of the word (rules R31, R110). -/
theorem decoderSyndromePorts_eq_syn (c : Word) :
    ((decoderSyndromePorts c).syndrome_o, (decoderSyndromePorts c).parity_all_o) = syn c := by
  simp only [decoderSyndromePorts, parityTreePort_eq_par, syn]

/-- The four group parities as exclusive ors over the position sets (rule R110). -/
theorem par_groups_eq_xor (c : Word) :
    par c maskA = (c.getLsbD 1 ^^ c.getLsbD 3 ^^ c.getLsbD 5 ^^ c.getLsbD 7 ^^ c.getLsbD 9 ^^ c.getLsbD 11 ^^
      c.getLsbD 13 ^^ c.getLsbD 15) ∧
    par c maskB = (c.getLsbD 2 ^^ c.getLsbD 3 ^^ c.getLsbD 6 ^^ c.getLsbD 7 ^^ c.getLsbD 10 ^^ c.getLsbD 11 ^^
      c.getLsbD 14 ^^ c.getLsbD 15) ∧
    par c maskC = (c.getLsbD 4 ^^ c.getLsbD 5 ^^ c.getLsbD 6 ^^ c.getLsbD 7 ^^ c.getLsbD 12 ^^ c.getLsbD 13 ^^
      c.getLsbD 14 ^^ c.getLsbD 15) ∧
    par c maskD = (c.getLsbD 8 ^^ c.getLsbD 9 ^^ c.getLsbD 10 ^^ c.getLsbD 11 ^^ c.getLsbD 12 ^^ c.getLsbD 13 ^^
      c.getLsbD 14 ^^ c.getLsbD 15) := by
  refine ⟨?_, ?_, ?_, ?_⟩
  · simp [par_eq_xor_of_bits, maskA, -BitVec.getLsbD_eq_getElem]
  · simp [par_eq_xor_of_bits, maskB, -BitVec.getLsbD_eq_getElem]
  · simp [par_eq_xor_of_bits, maskC, -BitVec.getLsbD_eq_getElem]
  · simp [par_eq_xor_of_bits, maskD, -BitVec.getLsbD_eq_getElem]

/-- The overall parity counts every 1-bit (rule R110). -/
theorem par_maskAll_eq_decide_popcount (c : Word) : par c maskAll = decide (popcount c % 2 = 1) := by
  rw [par_eq_decide_popcount, maskAll_eq_allOnes, BitVec.and_allOnes]

/-- SYN on a readable operand binds the syndrome and the overall parity and does nothing else (rule R110). -/
theorem exec_syn_of_read {s : State} {c : Operand Word} {cv : Word} (hc : s.readWord c = .ok cv) :
    exec (.syn c) s = .next (s.bind [.syndrome (syn cv).1, .bit (syn cv).2]) := by
  rw [exec, execSyn, hc, supply_ok]
  rfl

/-- SYN is linear, because PAR is (rule R111). -/
theorem syn_xor (u v : Word) : syn (u ^^^ v) = ((syn u).1 ^^^ (syn v).1, (syn u).2 ^^ (syn v).2) := by
  simp only [syn, par_xor, ← BitVec.ofBool_xor_ofBool, ← BitVec.xor_append]

/-- A flip in a valid codeword shows its position and odd parity (rules R62, R111). -/
theorem syn_flipBit_of_validCodeword {c : Word} (h : validCodeword c = true) (k : Position) :
    syn (flipBit c k) = (k, true) := by
  rw [syn_flipBit, (validCodeword_iff c).mp h, BitVec.zero_xor, Bool.not_false]

/-- A lone 1-bit is a flip in the zero codeword (rule R111). -/
theorem syn_oneHot (k : Position) : syn (oneHot k) = (k, true) := by
  rw [← flipBit_zero, syn_flipBit_of_validCodeword validCodeword_zero]

/-- On a valid codeword the syndrome depends on the error pattern only (rule R111). -/
theorem syn_xor_of_validCodeword {v : Word} (h : validCodeword v = true) (e : Word) : syn (v ^^^ e) = syn e := by
  rw [syn_xor, (validCodeword_iff v).mp h, BitVec.zero_xor, Bool.false_xor]

/-- One more flip changes the parity of the number of flips. -/
theorem not_xor_decide_odd (q : Bool) (n : Nat) :
    (!q ^^ decide (n % 2 = 1)) = (q ^^ decide ((n + 1) % 2 = 1)) := by
  have hsucc : (n + 1) % 2 = 1 ↔ ¬ n % 2 = 1 := by omega
  rw [decide_eq_decide.mpr hsucc, decide_not, Bool.not_xor, Bool.xor_not]

/-- Flips one after another add their positions to the syndrome and their number to the parity (rule R111). -/
theorem syn_foldl_flipBit (c : Word) (ks : List Position) :
    syn (ks.foldl flipBit c) = (ks.foldl (· ^^^ ·) (syn c).1, (syn c).2 ^^ decide (ks.length % 2 = 1)) := by
  induction ks generalizing c with
  | nil => simp
  | cons k ks ih =>
    rw [List.foldl_cons, ih, syn_flipBit, List.foldl_cons, List.length_cons, not_xor_decide_odd]

/-- Settles O25: the operation binds the four group parities, read off over the position sets, and the parity of the count of
1-bits; the ports compute the same parities with gate trees. -/
theorem synBindsCheckOutcomes : Obligations.SynBindsCheckOutcomes := by
  unfold Obligations.SynBindsCheckOutcomes
  refine ⟨fun s c cv hc => ?_, by decide, by decide, by decide, by decide, by decide, decoderSyndromePorts_eq_syn⟩
  obtain ⟨hA, hB, hC, hD⟩ := syn_fst_getLsbD cv
  obtain ⟨gA, gB, gC, gD⟩ := par_groups_eq_xor cv
  refine ⟨(syn cv).1, cv.getLsbD, fun _ => rfl, hA.trans gA, hB.trans gB, hC.trans gC, hD.trans gD, ?_⟩
  rw [exec_syn_of_read hc, syn_snd, par_maskAll_eq_decide_popcount]
  rfl

/-- Settles O26: the laws above; for errors at several positions the flips are taken one by one. -/
theorem synLaws : Obligations.SynLaws := by
  unfold Obligations.SynLaws
  refine ⟨syn_xor, encOutputPassesEveryCheck, syn_oneHot, fun v e hv => syn_xor_of_validCodeword hv e,
    fun v ks hv _ => ?_⟩
  rw [syn_foldl_flipBit, (validCodeword_iff v).mp hv, Bool.false_xor]

end Sys2Proof.Machine
end

section
/-! LOC and CORB (spec/43_syndrome_and_corrector.md rules R114, R115, R117): the candidate left is the one-hot word of the
syndrome, and CORB flips it when the overall parity is odd. -/

namespace Sys2Proof.Machine

theorem popcount_oneHot : ∀ k : Position, popcount (oneHot k) = 1 := by decide

/-- LOC on a readable operand binds the candidate and does nothing else (rule R114). -/
theorem exec_loc_of_read {s : State} {y : Operand Syndrome} {yv : Syndrome} (hy : s.readSyndrome y = .ok yv) :
    exec (.loc y) s = .next (s.bind [.word (loc yv)]) := by
  rw [exec, execLoc, hy, supply_ok, finish]

theorem corb_false (c : Word) (s : Syndrome) : corb c s false = (c, .noError) := rfl

/-- CORB as the port writes it: an exclusive or with the one-hot word or with 0 (rule R117). -/
theorem corb_eq_ite (c : Word) (s : Syndrome) (pall : Bool) :
    corb c s pall = (c ^^^ (if pall then oneHot s else 0x0000#16), if pall then .corrected s else .noError) := by
  cases pall with
  | false => rw [corb_false, if_neg Bool.false_ne_true, if_neg Bool.false_ne_true, BitVec.xor_zero]
  | true => rw [corb_true, if_pos rfl, if_pos rfl, flipBit]

/-- CORB on readable operands binds the word and the status and does nothing else (rule R117). -/
theorem exec_corb_of_reads {s : State} {c : Operand Word} {y : Operand Syndrome} {q : Operand Bool} {cv : Word}
    {yv : Syndrome} {qv : Bool} (hc : s.readWord c = .ok cv) (hy : s.readSyndrome y = .ok yv)
    (hq : s.readBit q = .ok qv) :
    exec (.corb c y q) s = .next (s.bind [.word (corb cv yv qv).1, .status (corb cv yv qv).2]) := by
  rw [exec, execCorb, hc, supply_ok, hy, supply_ok, hq, supply_ok]
  rfl

/-- The corrector's word is CORB's (rules R31, R117). -/
theorem correctorPorts_codeword_o (c : Word) (y : Syndrome) (q : Bool) :
    (correctorPorts c y q).codeword_o = (corb c y q).1 := by
  rw [corb_eq_ite, correctorPorts]

/-- Settles O28: the four narrowings are LOC's definition, and what they leave is the one-hot word of the syndrome. -/
theorem locBindsOneCandidate : Obligations.LocBindsOneCandidate := by
  unfold Obligations.LocBindsOneCandidate
  refine ⟨fun s y yv hy => ?_, fun y => rfl, fun y => ?_, by decide⟩
  · rw [exec_loc_of_read hy, loc_eq_oneHot]
    rfl
  · rw [loc_eq_oneHot, popcount_oneHot]

/-- Settles O29: CORB is the exclusive or of the port, and each value of the overall parity gives its own word and status. -/
theorem corbBindsCorrection : Obligations.CorbBindsCorrection := by
  unfold Obligations.CorbBindsCorrection
  refine ⟨fun s c y q cv yv qv hc hy hq => ?_, fun c y => ⟨corb_false c y, rfl, ?_⟩,
    fun c y q => ⟨correctorPorts_codeword_o c y q, rfl, rfl⟩, by decide⟩
  · rw [exec_corb_of_reads hc hy hq, corb_eq_ite]
    rfl
  · rw [corb_true]

end Sys2Proof.Machine
end

section
/-! COR (spec/43_syndrome_and_corrector.md rules R119, R120, R124, R125, R127): on even overall parity COR passes the word on,
on odd parity it flips the position the syndrome spells, which makes the word a valid codeword. -/

namespace Sys2Proof.Machine

/-- On even overall parity the syndrome is ignored (rule R119). -/
theorem cor_of_par_eq_false {c : Word} (h : par c maskAll = false) : cor c = (c, .noError) := by
  rw [cor_eq_corb_syn, syn_snd, h, corb_false]

/-- On odd overall parity the position that the syndrome spells is flipped (rule R119). -/
theorem cor_of_par_eq_true {c : Word} (h : par c maskAll = true) :
    cor c = (flipBit c (syn c).1, .corrected (syn c).1) := by
  rw [cor_eq_corb_syn, syn_snd, h, corb_true]

/-- Flipping the position that the syndrome spells makes every check of an odd word pass (rule R120). -/
theorem syn_flipBit_syn_of_par_eq_true {c : Word} (h : par c maskAll = true) :
    syn (flipBit c (syn c).1) = (0b0000#4, false) := by
  rw [syn_flipBit, syn_snd, h, BitVec.xor_self]
  rfl

/-- COR's word has even overall parity (rule R120). -/
theorem par_maskAll_cor (c : Word) : par (cor c).1 maskAll = false := by
  cases h : par c maskAll with
  | false => rw [cor_of_par_eq_false h, h]
  | true => rw [cor_of_par_eq_true h, par_maskAll_flipBit, h, Bool.not_true]

theorem par_maskAll_of_validCodeword {c : Word} (h : validCodeword c = true) : par c maskAll = false :=
  ((validCodeword_iff_par c).mp h).2

/-- COR passes a valid codeword on (rules R119, R125). -/
theorem cor_of_validCodeword {c : Word} (h : validCodeword c = true) : cor c = (c, .noError) :=
  cor_of_par_eq_false (par_maskAll_of_validCodeword h)

/-- A flip differs from the word in its one position. -/
theorem flipBit_xor_self (c : Word) (k : Position) : flipBit c k ^^^ c = oneHot k := by
  rw [flipBit, BitVec.xor_comm, ← BitVec.xor_assoc, BitVec.xor_self, BitVec.zero_xor]

/-- On odd overall parity COR changes exactly one bit (rule R119). -/
theorem popcount_cor_xor_of_par_eq_true {c : Word} (h : par c maskAll = true) : popcount ((cor c).1 ^^^ c) = 1 := by
  rw [cor_of_par_eq_true h, flipBit_xor_self, popcount_oneHot]

/-- COR on a readable operand binds the word and the status and does nothing else (rule R119). -/
theorem exec_cor_of_read {s : State} {c : Operand Word} {cv : Word} (hc : s.readWord c = .ok cv) :
    exec (.cor c) s = .next (s.bind [.word (cor cv).1, .status (cor cv).2]) := by
  rw [exec, execCor, hc, supply_ok]
  rfl

/-- The payload of the codeword of `v`, as a number (rule R138). -/
theorem toNat_dec_encodePayloadBits_ofNat {v : Nat} (hv : v < 2048) :
    (dec (encodePayloadBits (BitVec.ofNat 11 v))).toNat = v := by
  rw [dec_encodePayloadBits, BitVec.toNat_ofNat, Nat.mod_eq_of_lt hv]

/-- The positions with a lone 1 in their number (rule R124). -/
theorem popcount_eq_one_of_parityPosition : ∀ k : Position, k.toNat ∈ [1, 2, 4, 8] → popcount k = 1 := by decide

/-- Two flips invert the payload bits at the data positions among them (rule R125). -/
theorem dec_flipBit_flipBit_getLsbD (c : Word) {j k : Position} (hjk : j ≠ k) {i : Nat} (hi : i < 11) :
    (dec (flipBit (flipBit c j) k)).getLsbD i =
      ((dec c).getLsbD i ^^ decide (dataPos.getD i 0 = j.toNat ∨ dataPos.getD i 0 = k.toNat)) := by
  rw [dec_flipBit_getLsbD _ k hi, dec_flipBit_getLsbD c j hi, Bool.xor_assoc]
  by_cases hj : dataPos.getD i 0 = j.toNat
  · have hk : dataPos.getD i 0 ≠ k.toNat := fun hk => hjk (BitVec.eq_of_toNat_eq (hj.symm.trans hk))
    rw [decide_eq_true hj, decide_eq_false hk, decide_eq_true (Or.inl hj), Bool.xor_false]
  · rw [decide_eq_false hj, Bool.false_xor, decide_eq_decide.mpr (or_iff_right hj)]

/-- Settles O30: COR is CORB after SYN by definition; the cases follow from the two values of the overall parity, and a flip of
a valid codeword is flipped back. -/
theorem corBindsCorbAfterSyn : Obligations.CorBindsCorbAfterSyn := by
  unfold Obligations.CorBindsCorbAfterSyn
  exact ⟨fun s c cv hc => ⟨_, _, _, _, rfl, rfl, exec_cor_of_read hc⟩,
    fun v hv => ⟨cor_of_validCodeword hv, cor_flipBit_of_validCodeword hv⟩,
    fun c => cor_of_par_eq_false, fun c => popcount_cor_xor_of_par_eq_true, by decide⟩

/-- Settles O31: by the overall parity of the word; on odd parity the flip makes every check pass. -/
theorem corAlwaysRestoresParity : Obligations.CorAlwaysRestoresParity := by
  unfold Obligations.CorAlwaysRestoresParity
  intro c c2 st hcor
  have heven : par c2 maskAll = false := by
    rw [← par_maskAll_cor c, hcor]
  cases hpar : par c maskAll with
  | false =>
    rw [cor_of_par_eq_false hpar] at hcor
    obtain ⟨rfl, rfl⟩ := Prod.mk.inj hcor
    refine ⟨heven, by simp, by simp, by simp, by simp, ?_⟩
    rw [BitVec.xor_self]
    decide
  | true =>
    have hone := popcount_cor_xor_of_par_eq_true hpar
    have hvalid := syn_flipBit_syn_of_par_eq_true hpar
    rw [hcor] at hone
    rw [cor_of_par_eq_true hpar] at hcor
    obtain ⟨rfl, rfl⟩ := Prod.mk.inj hcor
    refine ⟨heven, by simp, by simp, by simp, ?_, hone.le⟩
    rintro k ⟨rfl⟩
    exact ⟨rfl, rfl, hvalid⟩

/-- Settles O32: the codeword of `v` is valid, so a flip's syndrome is its position and COR flips it back; DEC takes the
payload. -/
theorem corRepairsEverySingleError : Obligations.CorRepairsEverySingleError := by
  unfold Obligations.CorRepairsEverySingleError
  intro v k hv
  have hvalid := validCodeword_encodePayloadBits (BitVec.ofNat 11 v)
  have hsyn := syn_flipBit_of_validCodeword hvalid k
  refine ⟨_, enc_of_lt hv, cor_flipBit_of_validCodeword hvalid k, dec_encodePayloadBits _,
    toNat_dec_encodePayloadBits_ofNat hv, hsyn, fun hk => ?_, fun hk => ?_⟩
  · rw [hsyn]
    exact popcount_eq_one_of_parityPosition k hk
  · rw [hsyn, hk]

/-- Settles O33: two flips leave the overall parity even, so COR passes the word on; the syndrome is the exclusive or of the
two positions. -/
theorem corPassesZeroAndTwoErrors : Obligations.CorPassesZeroAndTwoErrors := by
  unfold Obligations.CorPassesZeroAndTwoErrors
  intro v hv
  have hvalid := validCodeword_encodePayloadBits (BitVec.ofNat 11 v)
  refine ⟨_, enc_of_lt hv, cor_of_validCodeword hvalid, fun j k hjk => ⟨cor_of_par_eq_false ?_, ?_, ?_, fun i hi => ?_⟩⟩
  · rw [par_maskAll_flipBit, par_maskAll_flipBit, Bool.not_not, par_maskAll_of_validCodeword hvalid]
  · rw [syn_flipBit, syn_flipBit_of_validCodeword hvalid]
  · exact fun hzero => hjk (BitVec.xor_eq_zero_iff.mp hzero)
  · rw [dec_flipBit_flipBit_getLsbD _ hjk hi, dec_encodePayloadBits, BitVec.getLsbD_ofNat, decide_eq_true hi,
      Bool.true_and]

/-- Settles O35: COR's word has even overall parity, and COR passes such a word on. -/
theorem corIsIdempotentOnWords : Obligations.CorIsIdempotentOnWords := by
  unfold Obligations.CorIsIdempotentOnWords
  have hagain : ∀ c : Word, cor (cor c).1 = ((cor c).1, .noError) := fun c => cor_of_par_eq_false (par_maskAll_cor c)
  refine ⟨fun c hpar => ⟨cor_of_par_eq_false hpar, ?_⟩, fun c c2 st hcor => ?_, fun c hpar => ⟨(syn c).1, ?_, ?_⟩⟩
  · rw [hagain, cor_of_par_eq_false hpar]
  · have h := hagain c
    rwa [hcor] at h
  · rw [cor_of_par_eq_true hpar]
  · rw [hagain]

end Sys2Proof.Machine
end

section
/-! DEC and RECV (spec/44_decoder.md rules R135, R136, R138, R140, R141): DEC is wiring and linear, SPREAD after DEC
clears the parity positions, and the words of one payload are those reached by flips at the five parity positions. -/

namespace Sys2Proof.Machine

/-- DEC is the concatenation of rule R61. -/
theorem dec_eq_payloadWires (c : Word) : dec c = payloadWires c := by
  refine BitVec.eq_of_getLsbD_eq fun i hi => ?_
  rw [dec_getLsbD, payloadWires]
  -- `getLsbD_append` needs the width as the sum of the widths joined
  change _ = BitVec.getLsbD (w := 7 + 3 + 1) _ _
  simp only [BitVec.getLsbD_append]
  interval_cases i <;> simp [-BitVec.getLsbD_eq_getElem]

/-- DEC on a readable operand binds the payload and does nothing else (rule R135). -/
theorem exec_dec_of_read {s : State} {c : Operand Word} {cv : Word} (hc : s.readWord c = .ok cv) :
    exec (.dec c) s = .next (s.bind [.payload (dec cv)]) := by
  rw [exec, execDec, hc, supply_ok, finish]

/-- RECV is COR, then DEC of the corrected word (rule R140). -/
theorem recv_eq_cor_dec (c : Word) : recv c = ((cor c).1, dec (cor c).1, (cor c).2) := rfl

/-- RECV on a readable operand binds COR's word, its payload and COR's status and does nothing else (rule R140). -/
theorem exec_recv_of_read {s : State} {c : Operand Word} {cv : Word} (hc : s.readWord c = .ok cv) :
    exec (.recv c) s = .next (s.bind [.word (cor cv).1, .payload (dec (cor cv).1), .status (cor cv).2]) := by
  rw [exec, execRecv, hc, supply_ok]
  rfl

/-- SPREAD after DEC keeps the data positions and clears the others (rule R136). -/
theorem spread_dec (c : Word) : spread (dec c) = c &&& maskData := by
  refine BitVec.eq_of_getLsbD_eq fun j hj => ?_
  rw [BitVec.getLsbD_and, maskData_getLsbD j hj]
  by_cases hdata : j ∈ dataPos
  · rw [decide_eq_true hdata, Bool.and_true]
    obtain ⟨i, hi, rfl⟩ := exists_dataPos_getD_eq j hdata
    rw [spread_getLsbD_dataPos _ i hi, dec_getLsbD_dataPos c i hi]
  · rw [spread_getLsbD_of_not_mem_dataPos _ hdata, decide_eq_false hdata, Bool.and_false]

/-- DEC ignores the parity positions (rule R136). -/
theorem dec_and_maskData (c : Word) : dec (c &&& maskData) = dec c := by
  rw [← spread_dec, dec_spread]

/-- An error at parity positions only has payload 0 (rule R136). -/
theorem dec_eq_zero_of_and_maskData_eq_zero {e : Word} (h : e &&& maskData = 0x0000#16) : dec e = 0#11 := by
  rw [← dec_and_maskData, h]
  decide

/-- Words of equal payload agree at the data positions. -/
theorem getLsbD_eq_of_dec_eq {u v : Word} (h : dec u = dec v) : ∀ j ∈ dataPos, u.getLsbD j = v.getLsbD j := by
  intro j hj
  obtain ⟨i, hi, rfl⟩ := exists_dataPos_getD_eq j hj
  rw [← dec_getLsbD_dataPos u i hi, ← dec_getLsbD_dataPos v i hi, h]

/-- The five positions that DEC does not read (rule R135). -/
def parityPositions : List Position := [0#4, 1#4, 2#4, 4#4, 8#4]

theorem nodup_parityPositions : parityPositions.Nodup := by decide

theorem mem_parityPositions_iff : ∀ k : Position, k ∈ parityPositions ↔ k.toNat ∉ dataPos := by decide

theorem word_eq_of_bitAt_eq {u v : Word} (h : ∀ k, bitAt u k = bitAt v k) : u = v :=
  BitVec.eq_of_getLsbD_eq fun i hi => h (BitVec.ofNatLT i hi)

/-- Flips at distinct positions invert the bits there and no others (rule R104). -/
theorem bitAt_foldl_flipBit (c : Word) {ks : List Position} (hks : ks.Nodup) (k : Position) :
    bitAt (ks.foldl flipBit c) k = (bitAt c k ^^ decide (k ∈ ks)) := by
  induction ks generalizing c with
  | nil => simp
  | cons j ks ih =>
    obtain ⟨hj, hrest⟩ := List.nodup_cons.mp hks
    have hflip : bitAt (flipBit c j) k = (bitAt c k ^^ decide (k = j)) := by
      rw [bitAt, flipBit_getLsbD c j _ k.isLt, ← bitAt, decide_eq_decide.mpr BitVec.toNat_inj]
    rw [List.foldl_cons, ih _ hrest, hflip]
    by_cases hkj : k = j
    · simp [hkj, hj]
    · simp [hkj]

/-- Flips at parity positions leave the payload as it was (rule R136). -/
theorem dec_foldl_flipBit {ks : List Position} (hks : ks ⊆ parityPositions) (c : Word) :
    dec (ks.foldl flipBit c) = dec c := by
  induction ks generalizing c with
  | nil => rfl
  | cons k ks ih =>
    obtain ⟨hk, hrest⟩ := List.cons_subset.mp hks
    rw [List.foldl_cons, ih hrest, dec_flipBit_of_not_mem_dataPos c ((mem_parityPositions_iff k).mp hk)]

/-- Different choices of parity positions to flip give different words: the flipped positions are where the word
changed. -/
theorem foldl_flipBit_inj_of_sublist (c : Word) {ks ls : List Position} (hks : ks.Sublist parityPositions)
    (hls : ls.Sublist parityPositions) (h : ks.foldl flipBit c = ls.foldl flipBit c) : ks = ls := by
  have hksNodup := nodup_parityPositions.sublist hks
  have hlsNodup := nodup_parityPositions.sublist hls
  have hmem : ∀ k, k ∈ ks ↔ k ∈ ls := fun k => by
    have hbit := congrArg (bitAt · k) h
    simpa [bitAt_foldl_flipBit c hksNodup, bitAt_foldl_flipBit c hlsNodup] using hbit
  exact (nodup_parityPositions.perm_iff_eq_of_sublist hks hls).mp
    ((List.perm_ext_iff_of_nodup hksNodup hlsNodup).mpr hmem)

/-- A word is reached from any other of the same payload by flipping the parity positions where they differ. -/
theorem foldl_flipBit_differing_parityPositions {u v : Word} (h : dec u = dec v) :
    (parityPositions.filter fun k => bitAt u k ^^ bitAt v k).foldl flipBit u = v := by
  refine word_eq_of_bitAt_eq fun k => ?_
  rw [bitAt_foldl_flipBit u (nodup_parityPositions.filter _)]
  by_cases hk : k ∈ parityPositions
  · simp only [List.mem_filter, hk, true_and, Bool.decide_eq_true, ← Bool.xor_assoc, Bool.xor_self, Bool.false_xor]
  · have hdata : k.toNat ∈ dataPos := not_not.mp fun hnot => hk ((mem_parityPositions_iff k).mpr hnot)
    have hsame : bitAt u k = bitAt v k := getLsbD_eq_of_dec_eq h _ hdata
    simp [hk, hsame]

/-- The words whose payload is `p`: SPREAD(p) with each choice of parity positions flipped (rule R136). -/
def wordsOfPayload (p : Payload) : List Word := parityPositions.sublists.map fun ks => ks.foldl flipBit (spread p)

theorem length_wordsOfPayload (p : Payload) : (wordsOfPayload p).length = 32 := by
  rw [wordsOfPayload, List.length_map, List.length_sublists]
  rfl

theorem nodup_wordsOfPayload (p : Payload) : (wordsOfPayload p).Nodup :=
  (List.nodup_sublists.mpr nodup_parityPositions).map_on fun _ hks _ hls =>
    foldl_flipBit_inj_of_sublist _ (List.mem_sublists.mp hks) (List.mem_sublists.mp hls)

theorem mem_wordsOfPayload_iff (p : Payload) (c : Word) : c ∈ wordsOfPayload p ↔ dec c = p := by
  rw [wordsOfPayload, List.mem_map]
  constructor
  · rintro ⟨ks, hks, rfl⟩
    rw [dec_foldl_flipBit (List.mem_sublists.mp hks).subset, dec_spread]
  · intro hc
    exact ⟨_, List.mem_sublists.mpr List.filter_sublist,
      foldl_flipBit_differing_parityPositions ((dec_spread p).trans hc.symm)⟩

/-- Among the words of a payload its codeword alone is valid (rules R93, R136). -/
theorem countP_validCodeword_wordsOfPayload (p : Payload) : (wordsOfPayload p).countP validCodeword = 1 := by
  have hvalid : ∀ c ∈ wordsOfPayload p, validCodeword c = true ↔ (c == encodePayloadBits p) = true := by
    intro c hc
    rw [beq_iff_eq]
    constructor
    · intro h
      rw [← (mem_wordsOfPayload_iff p c).mp hc, encodePayloadBits_dec_of_validCodeword h]
    · rintro rfl
      exact validCodeword_encodePayloadBits p
  rw [List.countP_congr hvalid]
  exact List.count_eq_one_of_mem (nodup_wordsOfPayload p) ((mem_wordsOfPayload_iff p _).mpr (dec_encodePayloadBits p))

/-- Settles O36: the operation binds DEC, which is the concatenation of rule R61 and so the port's wires. -/
theorem decBindsGatheredPayload : Obligations.DecBindsGatheredPayload := by
  unfold Obligations.DecBindsGatheredPayload
  refine ⟨fun s c cv hc => ?_, dec_getLsbD_dataPos, by decide, by decide, by decide, by decide, by decide,
    fun c => (dec_eq_payloadWires c).symm⟩
  rw [exec_dec_of_read hc, dec_eq_payloadWires]
  rfl

/-- Settles O37: the bit laws of DEC above; the 32 words of a payload are the choices of parity positions to flip, and
the valid one is its codeword. -/
theorem decLaws : Obligations.DecLaws := by
  unfold Obligations.DecLaws
  refine ⟨dec_spread, fun c => (dec_and_maskData c).symm, fun c e he => ?_, dec_xor, fun p => ?_, spread_dec⟩
  · rw [dec_xor, dec_eq_zero_of_and_maskData_eq_zero he, BitVec.xor_zero]
  · exact ⟨wordsOfPayload p, nodup_wordsOfPayload p, length_wordsOfPayload p, mem_wordsOfPayload_iff p,
      countP_validCodeword_wordsOfPayload p⟩

/-- Settles O38: DEC takes the payload back from its codeword, as bits and as a number. -/
theorem decodeOfEncodingIsPayload : Obligations.DecodeOfEncodingIsPayload := by
  unfold Obligations.DecodeOfEncodingIsPayload
  exact fun v hv => ⟨_, enc_of_lt hv, dec_encodePayloadBits _, toNat_dec_encodePayloadBits_ofNat hv⟩

/-- Settles O39: RECV is COR with the payload of COR's word; on even overall parity COR passes the word on. -/
theorem recvBindsCorThenDec : Obligations.RecvBindsCorThenDec := by
  unfold Obligations.RecvBindsCorThenDec
  refine ⟨fun s c cv hc => ⟨_, _, rfl, exec_recv_of_read hc⟩, fun c hpar => ?_, by decide⟩
  rw [recv_eq_cor_dec, cor_of_par_eq_false hpar]

/-- Settles O40: COR gives the codeword back, with no error and from any one flip, and DEC takes its payload. -/
theorem recvRecoversPayload : Obligations.RecvRecoversPayload := by
  unfold Obligations.RecvRecoversPayload
  intro v k hv
  have hvalid := validCodeword_encodePayloadBits (BitVec.ofNat 11 v)
  refine ⟨_, enc_of_lt hv, ?_, ?_⟩
  · rw [recv_eq_cor_dec, cor_of_validCodeword hvalid, dec_encodePayloadBits]
  · rw [recv_eq_cor_dec, cor_flipBit_of_validCodeword hvalid, dec_encodePayloadBits]

end Sys2Proof.Machine
end

section
/-! Which operations fault (spec/60_exceptions.md rules R150, R153): an operation that supplies its operands and then
finishes has no way to fault, and ENC alone does anything else. -/

namespace Sys2Proof.Machine

/-- Supplying an operand raises nothing: reading it can only refuse. -/
theorem supply_ne_fault {α : Type} {use : α → Result} {f : Fault} (huse : ∀ v, use v ≠ .fault f)
    (operand : Except Refusal α) : supply operand use ≠ .fault f := fun hfault =>
  have ⟨v, _, hv⟩ := (supply_eq_fault_iff operand use f).mp hfault
  huse v hv

/-- ENC faults exactly when its operand reads as an integer that fails the range check (rules R88, R150). -/
theorem exec_enc_eq_fault_iff (v : Operand Nat) (s : State) (f : Fault) :
    exec (.enc v) s = .fault f ↔ ∃ n, s.readInteger v = .ok n ∧ 2048 ≤ n ∧ f = .invalidPayload n := by
  constructor
  · intro hfault
    obtain ⟨n, hread, -⟩ := (supply_eq_fault_iff _ _ f).mp hfault
    rcases Nat.lt_or_ge n 2048 with hn | hn
    · rw [exec_enc_of_read_lt hread hn] at hfault
      cases hfault
    · rw [exec_enc_of_read_ge hread hn] at hfault
      cases hfault
      exact ⟨n, hread, hn, rfl⟩
  · rintro ⟨n, hread, hn, rfl⟩
    exact exec_enc_of_read_ge hread hn

/-- No operation but ENC faults: each supplies its one, two or three operands and finishes (rule R153). -/
theorem exec_ne_fault_of_op_ne_enc {i : Instr} (hop : i.op ≠ .enc) (s : State) (f : Fault) : exec i s ≠ .fault f := by
  cases i with
  | enc v => exact absurd rfl hop
  | spread | syn | loc | cor | dec | recv => exact supply_ne_fault (fun _ => finish_ne_fault s _ f) _
  | par | bitat | flip => exact supply_ne_fault (fun _ => supply_ne_fault (fun _ => finish_ne_fault s _ f) _) _
  | corb =>
    exact supply_ne_fault (fun _ => supply_ne_fault (fun _ => supply_ne_fault (fun _ => finish_ne_fault s _ f) _) _) _

/-- An operation selected as ENC is ENC of some operand. -/
theorem exists_eq_enc_of_op_eq_enc {i : Instr} (hop : i.op = .enc) : ∃ v, i = .enc v := by
  cases i with
  | enc v => exact ⟨v, rfl⟩
  | _ => cases hop

/-- Settles O43: what faults is ENC, and ENC faults by its range check. -/
theorem onlyEncFaults : Obligations.OnlyEncFaults := by
  unfold Obligations.OnlyEncFaults
  intro i s f
  constructor
  · intro hfault
    have hop : i.op = .enc := by_contra fun hne => exec_ne_fault_of_op_ne_enc hne s f hfault
    obtain ⟨v, rfl⟩ := exists_eq_enc_of_op_eq_enc hop
    obtain ⟨n, hread, hn, hf⟩ := (exec_enc_eq_fault_iff v s f).mp hfault
    exact ⟨v, n, rfl, hread, hn, hf⟩
  · rintro ⟨v, n, rfl, hread, hn, hf⟩
    exact (exec_enc_eq_fault_iff v s f).mpr ⟨n, hread, hn, hf⟩

end Sys2Proof.Machine
end

section
/-! The decoder and the encoder (spec/30_encoding.md sections 1 and 3): each operand decoder accepts the encodings of its
values and nothing else, so a drive decodes exactly when it is the encoding of a well-formed instruction. -/

namespace Sys2Proof

/-- A word below `2 ^ n` is its low `n` wires with zeros above. -/
theorem setWidth_setWidth_of_toNat_lt {n : Nat} (hn : n ≤ 16) {w : Word} (hw : w.toNat < 2 ^ n) :
    (w.setWidth n).setWidth 16 = w := by
  refine BitVec.eq_of_toNat_eq ?_
  rw [BitVec.toNat_setWidth_of_le hn, BitVec.toNat_setWidth, Nat.mod_eq_of_lt hw]

/-- The range check of a narrow operand accepts the `n`-bit values on the low wires, each read as itself. -/
theorem ite_lit_setWidth_eq_ok_iff {n : Nat} (hn : n ≤ 16) (w : Word) (e : DecodeError) (a : Operand (BitVec n)) :
    (if w.toNat < 2 ^ n then Except.ok (.lit (w.setWidth n)) else .error e) = .ok a ↔
      ∃ v : BitVec n, a = .lit v ∧ v.setWidth 16 = w := by
  constructor
  · intro h
    split at h
    next hlt =>
      cases h
      exact ⟨_, rfl, setWidth_setWidth_of_toNat_lt hn hlt⟩
    next => cases h
  · rintro ⟨v, rfl, rfl⟩
    have hlt : (v.setWidth 16).toNat < 2 ^ n := by
      rw [BitVec.toNat_setWidth_of_le hn]
      exact v.isLt
    rw [if_pos hlt, BitVec.setWidth_setWidth_of_le _ hn, BitVec.setWidth_eq]

theorem decodeWord_encodeWord (v : Operand Word) : decodeWord (encodeWord v) = v := by
  cases v <;> rfl

theorem encodeWord_decodeWord (a : Source) : encodeWord (decodeWord a) = a := by
  cases a <;> rfl

/-- Every integer that fits the port is read back from its wires (rule R57). -/
theorem decodePayloadInteger_encodePayloadInteger {v : Operand Nat} (h : Instr.payloadFitsPort v = true) :
    decodePayloadInteger (encodePayloadInteger v) = v := by
  cases v with
  | name x => rfl
  | lit n => exact congrArg Operand.lit (Nat.mod_eq_of_lt (of_decide_eq_true h))

theorem encodePayloadInteger_decodePayloadInteger (a : Source) :
    encodePayloadInteger (decodePayloadInteger a) = a := by
  cases a with
  | name x => rfl
  | word w => rw [decodePayloadInteger, encodePayloadInteger, BitVec.ofNat_toNat, BitVec.setWidth_eq]

/-- What stands on the sixteen wires fits the port (rule R7). -/
theorem payloadFitsPort_decodePayloadInteger (a : Source) :
    Instr.payloadFitsPort (decodePayloadInteger a) = true := by
  cases a with
  | name x => rfl
  | word w => exact decide_eq_true w.isLt

/-- A position is decoded from its encoding and from nothing else (rule R102). -/
theorem decodePosition_eq_ok_iff (a : Source) (k : Operand Position) :
    decodePosition a = .ok k ↔ encodePosition k = a := by
  cases a with
  | name x => cases k <;> simp [decodePosition, encodePosition, eq_comm]
  | word w =>
    refine (ite_lit_setWidth_eq_ok_iff (by decide) w _ k).trans ?_
    cases k <;> simp [encodePosition]

/-- A payload is decoded from its encoding and from nothing else (rule R26). -/
theorem decodePayload_eq_ok_iff (a : Source) (p : Operand Payload) :
    decodePayload a = .ok p ↔ encodePayload p = a := by
  cases a with
  | name x => cases p <;> simp [decodePayload, encodePayload, eq_comm]
  | word w =>
    refine (ite_lit_setWidth_eq_ok_iff (by decide) w _ p).trans ?_
    cases p <;> simp [encodePayload]

/-- A syndrome is decoded from its encoding and from nothing else (rule R59). -/
theorem decodeSyndrome_eq_ok_iff (a : Source) (y : Operand Syndrome) :
    decodeSyndrome a = .ok y ↔ encodeSyndrome y = a := by
  cases a with
  | name x => cases y <;> simp [decodeSyndrome, encodeSyndrome, eq_comm]
  | word w =>
    refine (ite_lit_setWidth_eq_ok_iff (by decide) w _ y).trans ?_
    cases y <;> simp [encodeSyndrome]

/-- The overall parity is decoded from its encoding and from nothing else (rule R59). -/
theorem decodeBit_eq_ok_iff (a : Source) (q : Operand Bool) : decodeBit a = .ok q ↔ encodeBit q = a := by
  constructor
  · fun_cases decodeBit with
    | case1 w hlt =>
      rintro ⟨rfl⟩
      rw [encodeBit, ← BitVec.setWidth_one, setWidth_setWidth_of_toNat_lt (by decide) hlt]
    | case2 w hge => exact nofun
    | case3 x =>
      rintro ⟨rfl⟩
      rfl
  · rintro rfl
    cases q with
    | name x => rfl
    | lit b => cases b <;> rfl

/-- Every well-formed instruction is read back from its drive. -/
theorem decode_encode {i : Instr} (h : i.wellFormed = true) : decode (encode i) = .ok i := by
  cases i with
  | par w m => simp only [encode, decode, decodeWord_encodeWord]
  | enc v => simp only [encode, decode, decodePayloadInteger_encodePayloadInteger h]
  | syn c | cor c | dec c | recv c => simp only [encode, decode, decodeWord_encodeWord]
  | spread p =>
    simp only [encode, decode, (decodePayload_eq_ok_iff _ p).mpr rfl]
    rfl
  | bitat w k | flip w k =>
    simp only [encode, decode, decodeWord_encodeWord, (decodePosition_eq_ok_iff _ k).mpr rfl]
    rfl
  | loc y =>
    simp only [encode, decode, (decodeSyndrome_eq_ok_iff _ y).mpr rfl]
    rfl
  | corb c y q =>
    simp only [encode, decode, decodeWord_encodeWord, (decodeSyndrome_eq_ok_iff _ y).mpr rfl,
      (decodeBit_eq_ok_iff _ q).mpr rfl]
    rfl

/-- A decoder that goes on after an operand accepted that operand. -/
theorem bind_eq_ok_iff {ε α β : Type} (x : Except ε α) (f : α → Except ε β) (b : β) :
    x >>= f = .ok b ↔ ∃ a, x = .ok a ∧ f a = .ok b := by
  cases x <;> simp [bind, Except.bind]

/-- Every drive that decodes is the encoding of a well-formed instruction. -/
theorem encode_eq_of_decode_eq_ok {d : Drive} {i : Instr} : decode d = .ok i → i.wellFormed = true ∧ encode i = d := by
  fun_cases decode with
  | case1 w m hoperands hop =>
    rintro ⟨rfl⟩
    exact ⟨rfl, by rw [encode, encodeWord_decodeWord, encodeWord_decodeWord, ← hop, ← hoperands]⟩
  | case2 p hoperands hop =>
    rw [bind_eq_ok_iff]
    rintro ⟨a, ha, ⟨rfl⟩⟩
    exact ⟨rfl, by rw [encode, (decodePayload_eq_ok_iff p a).mp ha, ← hop, ← hoperands]⟩
  | case3 v hoperands hop =>
    rintro ⟨rfl⟩
    exact ⟨payloadFitsPort_decodePayloadInteger v,
      by rw [encode, encodePayloadInteger_decodePayloadInteger, ← hop, ← hoperands]⟩
  | case4 w k hoperands hop | case5 c k hoperands hop =>
    rw [bind_eq_ok_iff]
    rintro ⟨a, ha, ⟨rfl⟩⟩
    exact ⟨rfl, by rw [encode, encodeWord_decodeWord, (decodePosition_eq_ok_iff k a).mp ha, ← hop, ← hoperands]⟩
  | case7 y hoperands hop =>
    rw [bind_eq_ok_iff]
    rintro ⟨a, ha, ⟨rfl⟩⟩
    exact ⟨rfl, by rw [encode, (decodeSyndrome_eq_ok_iff y a).mp ha, ← hop, ← hoperands]⟩
  | case8 c y q hoperands hop =>
    simp only [bind_eq_ok_iff]
    rintro ⟨a, ha, b, hb, ⟨rfl⟩⟩
    exact ⟨rfl, by rw [encode, encodeWord_decodeWord, (decodeSyndrome_eq_ok_iff y a).mp ha,
      (decodeBit_eq_ok_iff q b).mp hb, ← hop, ← hoperands]⟩
  | case6 c hoperands hop | case9 c hoperands hop | case10 c hoperands hop | case11 c hoperands hop =>
    rintro ⟨rfl⟩
    exact ⟨rfl, by rw [encode, encodeWord_decodeWord, ← hop, ← hoperands]⟩
  | case12 => exact nofun

end Sys2Proof

namespace Sys2Proof.Machine

/-- Settles O5: each drive is the encoding of the instruction it spells. -/
theorem operandWordsDecode : Obligations.OperandWordsDecode := by
  unfold Obligations.OperandWordsDecode
  exact ⟨decode_encode (i := .enc (.lit 5)) (by decide), decode_encode (i := .flip (.lit 0x005A#16) (.lit 7#4)) rfl,
    decode_encode (i := .corb (.lit 0x00DA#16) (.lit 0b0111#4) (.lit true)) rfl,
    decode_encode (i := .loc (.lit 0b1111#4)) rfl, decode_encode (i := .spread (.lit 0x7FF#11)) rfl⟩

/-- Settles O6: by the constructors of the instruction; each operand decoder takes its operand back. -/
theorem decodeOfEncodeIsIdentity : Obligations.DecodeOfEncodeIsIdentity := by
  unfold Obligations.DecodeOfEncodeIsIdentity
  exact fun _ => decode_encode

/-- Settles O7: by the branches of the decoder; each operand decoder accepts encodings only. -/
theorem encodeOfDecodeIsIdentity : Obligations.EncodeOfDecodeIsIdentity := by
  unfold Obligations.EncodeOfDecodeIsIdentity
  exact fun _ _ => encode_eq_of_decode_eq_ok

end Sys2Proof.Machine
end

section
/-! What evaluating an operation can come to (spec/60_exceptions.md section 1; log entry 5), said once for all operations:
with operands that can be read it finishes with results of its kinds or faults, with others it is refused over a name it
reads; and in two states that agree on those names it comes to the same. -/

namespace Sys2Proof.Machine

/-- Reading an operand gives a value if the operand is `readable`, and a refusal over one of its `names` if not: what the
laws `State.readWord_cases` and its like say of each reader. -/
def ReadsOrRefuses {α : Type} (readable : Bool) (names : List Nat) (operand : Except Refusal α) : Prop :=
  (readable = true ∧ ∃ v, operand = .ok v) ∨
  (readable = false ∧ ∃ x ∈ names, operand = .error (.unboundName x) ∨ operand = .error (.operandKind x))

/-- What an operation may come to in the state `s`: its operands are `readable` or not, they have these `names`, and its
results are of these `kinds`. -/
inductive Outcomes (s : State) (kinds : List Kind) (readable : Bool) (names : List Nat) : Result → Prop where
  | completes (results : List Value) (hread : readable = true) (hkinds : results.map Value.kind = kinds) :
      Outcomes s kinds readable names (finish s results)
  | faults (f : Fault) (hread : readable = true) : Outcomes s kinds readable names (.fault f)
  | refuses (r : Refusal) (x : Nat) (hread : readable = false) (hx : x ∈ names)
      (hr : r = .unboundName x ∨ r = .operandKind x) : Outcomes s kinds readable names (.refused r)

/-- An operand adds to what is done with its value the chance that it cannot be read. -/
theorem Outcomes.of_supply {α : Type} {s : State} {kinds : List Kind} {readable others : Bool}
    {names otherNames : List Nat} {operand : Except Refusal α} {use : α → Result}
    (hoperand : ReadsOrRefuses readable names operand) (huse : ∀ v, Outcomes s kinds others otherNames (use v)) :
    Outcomes s kinds (readable && others) (names ++ otherNames) (supply operand use) := by
  rcases hoperand with ⟨rfl, v, rfl⟩ | ⟨rfl, x, hx, rfl | rfl⟩
  · have hout := huse v
    rw [supply_ok, Bool.true_and]
    generalize use v = r at hout
    cases hout with
    | completes results hread hkinds => exact .completes results hread hkinds
    | faults f hread => exact .faults f hread
    | refuses r x hread hx hr => exact .refuses r x hread (List.mem_append_right names hx) hr
  · exact .refuses _ x rfl (List.mem_append_left otherNames hx) (.inl rfl)
  · exact .refuses _ x rfl (List.mem_append_left otherNames hx) (.inr rfl)

/-- The last operand: nothing else can be refused. -/
theorem Outcomes.of_supply_last {α : Type} {s : State} {kinds : List Kind} {readable : Bool} {names : List Nat}
    {operand : Except Refusal α} {use : α → Result} (hoperand : ReadsOrRefuses readable names operand)
    (huse : ∀ v, Outcomes s kinds true [] (use v)) : Outcomes s kinds readable names (supply operand use) := by
  have h := Outcomes.of_supply hoperand huse
  rwa [Bool.and_true, List.append_nil] at h

/-- Every operation, by its constructor: its operands are supplied one after another, and then it finishes with results of
its kinds; ENC may fault instead. -/
theorem exec_outcomes (i : Instr) (s : State) :
    Outcomes s i.op.resultKinds (i.scoped s.kinds) i.names (exec i s) := by
  cases i with
  | par w m =>
    exact .of_supply (s.readWord_cases w) fun _ => .of_supply_last (s.readWord_cases m) fun _ => .completes _ rfl rfl
  | spread p => exact .of_supply_last (s.readPayload_cases p) fun _ => .completes _ rfl rfl
  | enc v =>
    refine .of_supply_last (s.readInteger_cases v) fun n => ?_
    cases enc n with
    | ok c => exact .completes _ rfl rfl
    | error f => exact .faults _ rfl
  | bitat c k | flip c k =>
    exact .of_supply (s.readWord_cases c) fun _ => .of_supply_last (s.readPosition_cases k) fun _ => .completes _ rfl rfl
  | syn c | cor c | dec c | recv c => exact .of_supply_last (s.readWord_cases c) fun _ => .completes _ rfl rfl
  | loc y => exact .of_supply_last (s.readSyndrome_cases y) fun _ => .completes _ rfl rfl
  | corb c y q =>
    rw [Instr.scoped, Instr.names, Bool.and_assoc, List.append_assoc]
    exact .of_supply (s.readWord_cases c) fun _ => .of_supply (s.readSyndrome_cases y) fun _ =>
      .of_supply_last (s.readBit_cases q) fun _ => .completes _ rfl rfl

/-- An operation that completes binds results of its kinds and does nothing else. -/
theorem exec_eq_next {i : Instr} {s s' : State} (h : exec i s = .next s') :
    i.scoped s.kinds = true ∧
      ∃ results : List Value, results.map Value.kind = i.op.resultKinds ∧ s' = s.bind results := by
  have hout := exec_outcomes i s
  rw [h] at hout
  cases hout with
  | completes results hread hkinds => exact ⟨hread, results, hkinds, rfl⟩

/-- An operation that is refused is refused over a name it reads. -/
theorem exec_eq_refused {i : Instr} {s : State} {r : Refusal} (h : exec i s = .refused r) :
    i.scoped s.kinds = false ∧ ∃ x ∈ i.names, r = .unboundName x ∨ r = .operandKind x := by
  have hout := exec_outcomes i s
  rw [h] at hout
  cases hout with
  | refuses r x hread hx hr => exact ⟨hread, x, hx, hr⟩

/-- An operation whose operands can be read completes or faults. -/
theorem exec_of_scoped {i : Instr} {s : State} (h : i.scoped s.kinds = true) :
    (∃ results : List Value, results.map Value.kind = i.op.resultKinds ∧ exec i s = .next (s.bind results)) ∨
    ∃ f, exec i s = .fault f := by
  have hout := exec_outcomes i s
  rw [h] at hout
  generalize exec i s = r at hout
  cases hout with
  | completes results _ hkinds => exact .inl ⟨results, hkinds, rfl⟩
  | faults f => exact .inr ⟨f, rfl⟩
  | refuses _ _ hread => cases hread

/-- An operation with an operand that cannot be read is refused. -/
theorem exists_refused_of_not_scoped {i : Instr} {s : State} (h : i.scoped s.kinds = false) :
    ∃ r, exec i s = .refused r := by
  have hout := exec_outcomes i s
  rw [h] at hout
  generalize exec i s = r at hout
  cases hout with
  | completes _ hread | faults _ hread => cases hread
  | refuses r => exact ⟨r, rfl⟩

/-- Settles O45: readable operands leave completion and a fault, and what faults is ENC out of range. -/
theorem scopedOperationCompletes : Obligations.ScopedOperationCompletes := by
  unfold Obligations.ScopedOperationCompletes
  intro i s hscoped
  rcases exec_of_scoped hscoped with hnext | ⟨f, hfault⟩
  · exact .inl hnext
  · obtain ⟨v, n, hi, hread, hn, rfl⟩ := (onlyEncFaults i s f).mp hfault
    exact .inr ⟨v, n, hi, hread, hn, hfault⟩

/-- Settles O46: the operands' scope decides between refusal and the other outcomes. -/
theorem refusedExactlyWhenOperandUnreadable : Obligations.RefusedExactlyWhenOperandUnreadable := by
  unfold Obligations.RefusedExactlyWhenOperandUnreadable
  exact fun i s => ⟨⟨fun ⟨_, h⟩ => (exec_eq_refused h).1, exists_refused_of_not_scoped⟩,
    fun _ h => (exec_eq_refused h).2⟩

/-- Settles O47: completing only adds the results after the earlier bindings. -/
theorem earlierBindingsNeverChange : Obligations.EarlierBindingsNeverChange := by
  unfold Obligations.EarlierBindingsNeverChange
  intro i s s' hexec
  obtain ⟨-, results, hkinds, rfl⟩ := exec_eq_next hexec
  refine ⟨rfl, ?_, fun x v hx => ?_⟩
  · rw [State.bind_bindings, List.length_append, ← hkinds, List.length_map]
  · rw [State.bind_bindings, List.getElem?_append_left (List.getElem?_eq_some_iff.mp hx).1, hx]

/-- Two outcomes alike: the same results bound in either state, the same fault, or the same refusal. -/
inductive SameOutcome (s t : State) : Result → Result → Prop where
  | completes (results : List Value) : SameOutcome s t (finish s results) (finish t results)
  | faults (f : Fault) : SameOutcome s t (.fault f) (.fault f)
  | refuses (r : Refusal) : SameOutcome s t (.refused r) (.refused r)

theorem SameOutcome.of_supply {α : Type} {s t : State} {operand operand' : Except Refusal α} {use use' : α → Result}
    (hoperand : operand = operand') (huse : ∀ v, SameOutcome s t (use v) (use' v)) :
    SameOutcome s t (supply operand use) (supply operand' use') := by
  subst hoperand
  cases operand with
  | ok v => exact huse v
  | error r => exact .refuses r

/-- Reading an operand depends on the bindings of its names alone. -/
theorem State.read_congr {α : Type} {s t : State} (accept : Value → Option α) {a : Operand α}
    (h : ∀ x ∈ a.names, s.bindings[x]? = t.bindings[x]?) : s.read accept a = t.read accept a := by
  cases a with
  | lit v => rfl
  | name x => exact State.readName_congr s t accept x (h x (List.mem_singleton_self x))

/-- Every operation, by its constructor: its operands read alike, and the rest does not depend on the state. -/
theorem exec_sameOutcome {i : Instr} {s t : State} (h : ∀ x ∈ i.names, s.bindings[x]? = t.bindings[x]?) :
    SameOutcome s t (exec i s) (exec i t) := by
  cases i with
  | spread a | syn a | loc a | cor a | dec a | recv a =>
    exact .of_supply (State.read_congr _ h) fun _ => .completes _
  | enc v =>
    refine .of_supply (State.read_congr _ h) fun n => ?_
    cases enc n with
    | ok c => exact .completes _
    | error f => exact .faults _
  | par a b | bitat a b | flip a b =>
    obtain ⟨ha, hb⟩ := List.forall_mem_append.mp h
    exact .of_supply (State.read_congr _ ha) fun _ => .of_supply (State.read_congr _ hb) fun _ => .completes _
  | corb a b c =>
    obtain ⟨hab, hc⟩ := List.forall_mem_append.mp h
    obtain ⟨ha, hb⟩ := List.forall_mem_append.mp hab
    exact .of_supply (State.read_congr _ ha) fun _ => .of_supply (State.read_congr _ hb) fun _ =>
      .of_supply (State.read_congr _ hc) fun _ => .completes _

/-- Settles O48: each way the two outcomes are alike. -/
theorem resultsDependOnOperandsOnly : Obligations.ResultsDependOnOperandsOnly := by
  unfold Obligations.ResultsDependOnOperandsOnly
  intro i s t hagree
  have hsame := exec_sameOutcome hagree
  generalize exec i s = r, exec i t = r' at hsame
  cases hsame with
  | completes results =>
    refine ⟨?_, fun f => by simp, fun r => by simp⟩
    rintro s' ⟨rfl⟩
    exact ⟨results, rfl, rfl⟩
  | faults f => exact ⟨nofun, fun _ => Iff.rfl, fun _ => Iff.rfl⟩
  | refuses r => exact ⟨nofun, fun _ => Iff.rfl, fun _ => Iff.rfl⟩

end Sys2Proof.Machine
end

section
/-! The step and the invariant of a run (spec/30_encoding.md section 5; log entries 1, 6, 7): a step evaluates the drive at the
head of the trace, and a well-scoped trace stays so until it ends or faults. -/

namespace Sys2Proof.Machine

/-- A step on a drive that presents an operation evaluates it with the rest of the trace pending (rule R70). -/
theorem step_eq_exec {s : State} {d : Drive} {rest : List Drive} {i : Instr} (hpending : s.pending = d :: rest)
    (hdecode : decode d = .ok i) : step s = exec i (s.withPending rest) := by
  simp only [step, hpending, hdecode]

theorem decode_tableDrive_of_decodeTableWord {nbits w : Nat} {i : Instr} (h : decodeTableWord nbits w = some i) :
    decode (tableDrive nbits w) = .ok i := by
  unfold decodeTableWord at h
  split at h
  next j hj =>
    cases h
    exact hj
  next => cases h

/-- Taking the line that `withFetchWord` put first leaves the trace as it was. -/
theorem State.withPending_withFetchWord (s : State) (nbits w : Nat) :
    (s.withFetchWord nbits w).withPending s.pending = s := rfl

/-- Settles O1: by the definitions of reset and of a step with no line. -/
theorem resetHoldsNothing : Obligations.ResetHoldsNothing := by
  unfold Obligations.ResetHoldsNothing
  exact ⟨State.reset_pending, State.reset_bindings, rfl⟩

/-- Settles O2: the step on a drive that decodes. -/
theorem stepEvaluatesDrivenOperation : Obligations.StepEvaluatesDrivenOperation := by
  unfold Obligations.StepEvaluatesDrivenOperation
  exact fun _ _ _ _ => step_eq_exec

/-- Settles O3: by the branches of the step. -/
theorem stepRefusesWithoutOperation : Obligations.StepRefusesWithoutOperation := by
  unfold Obligations.StepRefusesWithoutOperation
  exact ⟨fun s hempty => by rw [step, hempty], fun _ _ _ _ => step_eq_refused_of_decode_eq_error⟩

/-- Settles O4: the table word's drive stands first and decodes to its instruction. -/
theorem fetchWordIsEvaluatedNext : Obligations.FetchWordIsEvaluatedNext := by
  unfold Obligations.FetchWordIsEvaluatedNext
  intro s nbits w i hword
  rw [step_eq_exec (s.withFetchWord_pending nbits w) (decode_tableDrive_of_decodeTableWord hword),
    State.withPending_withFetchWord]

theorem State.bind_kinds (s : State) (results : List Value) :
    (s.bind results).kinds = s.kinds ++ results.map Value.kind := List.map_append

/-- A drive heads a well-scoped trace when it presents an operation that is scoped, and the rest is well scoped once its
results are bound. -/
theorem traceScoped_cons_iff (kinds : List Kind) (d : Drive) (rest : List Drive) :
    traceScoped kinds (d :: rest) = true ↔
      ∃ i, decode d = .ok i ∧ i.scoped kinds = true ∧ traceScoped (kinds ++ i.op.resultKinds) rest = true := by
  rw [traceScoped]
  cases decode d <;> simp

/-- A well-scoped state with a line waiting steps to a well-scoped state that has consumed the line, or faults in ENC. -/
theorem step_of_wellScoped {s : State} {d : Drive} {rest : List Drive} (hscoped : s.wellScoped = true)
    (hpending : s.pending = d :: rest) :
    (∃ s', step s = .next s' ∧ s'.wellScoped = true ∧ s'.pending = rest) ∨
    (∃ n, 2048 ≤ n ∧ step s = .fault (.invalidPayload n)) := by
  rw [State.wellScoped, hpending] at hscoped
  obtain ⟨i, hdecode, hi, hrest⟩ := (traceScoped_cons_iff s.kinds d rest).mp hscoped
  rw [step_eq_exec hpending hdecode]
  rcases scopedOperationCompletes i (s.withPending rest) hi with ⟨results, hkinds, hexec⟩ | ⟨v, n, -, -, hn, hfault⟩
  · refine .inl ⟨_, hexec, ?_, rfl⟩
    rw [← hkinds, ← State.bind_kinds] at hrest
    exact hrest
  · exact .inr ⟨n, hn, hfault⟩

/-- Settles O49: no line is pending at reset. -/
theorem resetIsWellScoped : Obligations.ResetIsWellScoped := by
  unfold Obligations.ResetIsWellScoped
  rw [State.wellScoped, State.reset_pending, traceScoped]

/-- Settles O50: a step that completes had a line to evaluate, and keeps the trace well scoped. -/
theorem stepKeepsWellScoped : Obligations.StepKeepsWellScoped := by
  unfold Obligations.StepKeepsWellScoped
  intro s s' hscoped hstep
  obtain ⟨d, rest, i, hpending, -, -⟩ := step_eq_next hstep
  rcases step_of_wellScoped hscoped hpending with ⟨t, hnext, ht, -⟩ | ⟨n, -, hfault⟩
  · cases hstep.symm.trans hnext
    exact ht
  · cases hstep.symm.trans hfault

/-- A run goes on from the state that its first step gives. -/
theorem run_succ_of_next {M : Host.Core} {s s' : M.State} (k : Nat) (h : M.step s = .next s') :
    M.run (k + 1) s = M.run k s' := by
  rw [Host.Core.run, h]

/-- A run ends at the first fault. -/
theorem run_succ_of_fault {M : Host.Core} {s : M.State} {f : M.Fault} (k : Nat) (h : M.step s = .fault f) :
    M.run (k + 1) s = .fault f := by
  rw [Host.Core.run, h]

/-- Settles O51: by induction on the number of steps; each consumes a line and keeps the trace well scoped, or faults. -/
theorem wellScopedTraceNeverStuck : Obligations.WellScopedTraceNeverStuck := by
  unfold Obligations.WellScopedTraceNeverStuck
  intro s k
  induction k generalizing s with
  | zero => exact fun hscoped _ => .inl ⟨s, rfl, hscoped, rfl⟩
  | succ k ih =>
    intro hscoped hk
    obtain ⟨d, rest, hpending⟩ := List.exists_cons_of_length_pos (Nat.zero_lt_of_lt hk)
    rw [hpending, List.length_cons, Nat.succ_le_succ_iff] at hk
    rcases step_of_wellScoped hscoped hpending with ⟨s', hnext, hscoped', rfl⟩ | ⟨n, hn, hfault⟩
    · have hrun : core.run (k + 1) s = core.run k s' := run_succ_of_next k hnext
      rw [hrun, hpending]
      exact ih s' hscoped' hk
    · exact .inr ⟨n, hn, run_succ_of_fault k hfault⟩

end Sys2Proof.Machine
end

section
/-! Reading by name and runs of several lines (spec/30_encoding.md section 5, spec/44_decoder.md section 2): what a line binds
is what a later line reads, so a run is the composition of the operations. -/

namespace Sys2Proof.Machine

theorem State.read_name_of_accept {α : Type} {s : State} {accept : Value → Option α} {x : Nat} {v : Value} {a : α}
    (hx : s.bindings[x]? = some v) (ha : accept v = some a) : s.read accept (.name x) = .ok a :=
  (s.readName_ok_iff accept x a).mpr ⟨v, hx, ha⟩

theorem State.readWord_name {s : State} {x : Nat} {w : Word} (hx : s.bindings[x]? = some (.word w)) :
    s.readWord (.name x) = .ok w := State.read_name_of_accept hx rfl

theorem State.readSyndrome_name {s : State} {x : Nat} {y : Syndrome} (hx : s.bindings[x]? = some (.syndrome y)) :
    s.readSyndrome (.name x) = .ok y := State.read_name_of_accept hx rfl

theorem State.readBit_name {s : State} {x : Nat} {b : Bool} (hx : s.bindings[x]? = some (.bit b)) :
    s.readBit (.name x) = .ok b := State.read_name_of_accept hx rfl

theorem State.read_name_of_unbound {α : Type} {s : State} {x : Nat} (accept : Value → Option α)
    (hx : s.bindings[x]? = none) : s.read accept (.name x) = .error (.unboundName x) := by
  rw [State.read, State.readName, State.lookup, hx]

/-- Settles O9: a literal reads as itself; a name reads as what is bound, where its reader accepts that, and is refused
where nothing is. -/
theorem operandsAreLiteralsOrBoundNames : Obligations.OperandsAreLiteralsOrBoundNames := by
  unfold Obligations.OperandsAreLiteralsOrBoundNames
  refine fun s => ⟨s.readWord_lit, s.readPayload_lit, s.readInteger_lit, s.readPosition_lit, s.readSyndrome_lit,
    s.readBit_lit, fun x w hx => ?_, fun x p hx => ?_, fun x y hx => ?_, fun x b hx => ?_, fun x hx => ?_⟩
  · exact ⟨State.read_name_of_accept hx rfl, State.read_name_of_accept hx rfl⟩
  · exact ⟨State.read_name_of_accept hx rfl, State.read_name_of_accept hx rfl⟩
  · exact ⟨State.read_name_of_accept hx rfl, State.read_name_of_accept hx rfl⟩
  · exact State.read_name_of_accept hx rfl
  · exact ⟨State.read_name_of_unbound _ hx, State.read_name_of_unbound _ hx, State.read_name_of_unbound _ hx,
      State.read_name_of_unbound _ hx, State.read_name_of_unbound _ hx, State.read_name_of_unbound _ hx⟩

theorem State.readInteger_withPending (s : State) (rest : List Drive) (v : Operand Nat) :
    (s.withPending rest).readInteger v = s.readInteger v := State.read_congr _ fun _ _ => rfl

/-- A step on the drive of a well-formed instruction evaluates that instruction. -/
theorem step_encode {s : State} {i : Instr} {rest : List Drive} (hwf : i.wellFormed = true)
    (hpending : s.pending = encode i :: rest) : step s = exec i (s.withPending rest) :=
  step_eq_exec hpending (decode_encode hwf)

/-- Settles O44: the first step faults, and a fault ends the run. -/
theorem faultEndsTheTrace : Obligations.FaultEndsTheTrace := by
  unfold Obligations.FaultEndsTheTrace
  intro s v n k rest hwf hpending hread hn
  have hread' : (s.withPending rest).readInteger v = .ok n := by rw [State.readInteger_withPending, hread]
  exact run_succ_of_fault k ((step_encode hwf hpending).trans (exec_enc_of_read_ge hread' hn))

/-- A run whose first line completes goes on with its results bound. -/
theorem core_run_encode {i : Instr} {rest : List Drive} {bindings results : List Value} (k : Nat)
    (hwf : i.wellFormed = true)
    (hexec : exec i { pending := rest, bindings } = .next { pending := rest, bindings := bindings ++ results }) :
    core.run (k + 1) { pending := encode i :: rest, bindings } =
      core.run k { pending := rest, bindings := bindings ++ results } := by
  have hstep : step { pending := encode i :: rest, bindings } = _ := (step_encode hwf rfl).trans hexec
  exact run_succ_of_next k hstep

/-- At the end of a run the results of its lines stand one after another. -/
theorem core_run_zero_eq_next {rest : List Drive} {bindings bindings' : List Value} (h : bindings = bindings') :
    core.run 0 { pending := rest, bindings } = .next { pending := rest, bindings := bindings' } := by
  rw [h]
  rfl

theorem exec_enc_of_enc_eq_ok {s : State} {v : Operand Nat} {n : Nat} {c : Word} (hv : s.readInteger v = .ok n)
    (henc : enc n = .ok c) : exec (.enc v) s = .next (s.bind [.word c]) := by
  obtain ⟨hn, rfl⟩ := (enc_eq_ok_iff n c).mp henc
  exact exec_enc_of_read_lt hv hn

/-- Settles O41: the three lines in turn; FLIP and RECV each read the word bound last, and RECV undoes the flip. -/
theorem transferSurvivesOneFlippedBit : Obligations.TransferSurvivesOneFlippedBit := by
  unfold Obligations.TransferSurvivesOneFlippedBit
  rintro ⟨pending, bindings⟩ rest v k hv hpending
  dsimp only at hpending ⊢
  subst hpending
  obtain ⟨c, henc, -, hrecv⟩ := recvRecoversPayload v k hv
  simp only [recv_eq_cor_dec, Prod.mk.injEq] at hrecv
  obtain ⟨hword, hpayload, hstatus⟩ := hrecv
  rw [hword] at hpayload
  have hwf : (Instr.enc (.lit v)).wellFormed = true := decide_eq_true (hv.trans (by decide))
  have hsent : (bindings ++ [.word c])[bindings.length]? = some (.word c) := by simp
  have hreceived : (bindings ++ [.word c] ++ [.word (flipBit c k)])[bindings.length + 1]? =
      some (.word (flipBit c k)) := by
    simp
  refine ⟨c, henc, ?_⟩
  calc
    _ = _ := core_run_encode 2 hwf (exec_enc_of_enc_eq_ok rfl henc)
    _ = _ := core_run_encode 1 rfl (exec_flip_of_reads (State.readWord_name hsent) rfl)
    _ = _ := core_run_encode 0 rfl (exec_recv_of_read (State.readWord_name hreceived))
    _ = _ := core_run_zero_eq_next (by simp [hword, hpayload, hstatus])

/-- Settles O42: each expansion in two lines; the second reads what the first bound. -/
theorem compositesEqualTheirExpansions : Obligations.CompositesEqualTheirExpansions := by
  unfold Obligations.CompositesEqualTheirExpansions
  intro s rest c
  refine ⟨(syn c).1, (syn c).2, (cor c).1, dec (cor c).1, (cor c).2, exec_cor_of_read rfl, exec_recv_of_read rfl, ?_, ?_⟩
  · have hy : (s.bindings ++ [.syndrome (syn c).1, .bit (syn c).2])[s.bindings.length]? = some (.syndrome (syn c).1) := by
      simp
    have hq : (s.bindings ++ [.syndrome (syn c).1, .bit (syn c).2])[s.bindings.length + 1]? = some (.bit (syn c).2) := by
      simp
    calc
      _ = _ := core_run_encode 1 rfl (exec_syn_of_read rfl)
      _ = _ := core_run_encode 0 rfl (exec_corb_of_reads rfl (State.readSyndrome_name hy) (State.readBit_name hq))
      _ = _ := core_run_zero_eq_next (by simp [cor_eq_corb_syn])
  · have hc : (s.bindings ++ [.word (cor c).1, .status (cor c).2])[s.bindings.length]? = some (.word (cor c).1) := by
      simp
    calc
      _ = _ := core_run_encode 1 rfl (exec_cor_of_read rfl)
      _ = _ := core_run_encode 0 rfl (exec_dec_of_read (State.readWord_name hc))
      _ = _ := core_run_zero_eq_next (by simp)

end Sys2Proof.Machine
end

section
/-! The port level (spec/10_state.md section 3, spec/30_encoding.md rule R58, spec/40_parity_tree.md rule R77, spec/44_decoder.md
rule R142): each block's wiring computes the operations it stands for. -/

namespace Sys2Proof.Machine

/-- Settles O52: the gate tree gives the exclusive or of the masked bits. -/
theorem parityTreePortComputesPar : Obligations.ParityTreePortComputesPar := by
  unfold Obligations.ParityTreePortComputesPar
  exact parityTreePort_eq_par

/-- The encoder's wires carry the codeword: they are the parallel form (rule R89). -/
theorem encoderWires_eq_encodePayloadBits (p : Payload) : encoderWires p = encodePayloadBits p := by
  simp only [encoderWires, parityTreePort_eq_par, ← spread_eq_spreadWires, encodePayloadBits_eq_parallel, metaParity]

/-- Below the bound `codeword_o` is the codeword of the payload offered (rule R30). -/
theorem encoderPorts_codeword_o_of_lt {width : Nat} {payload : BitVec width} (h : payload.toNat < 2048) :
    (encoderPorts payload).codeword_o = encodePayloadBits (BitVec.ofNat 11 payload.toNat) := by
  rw [encoderPorts, Config.payloadBound, if_pos h, encoderWires_eq_encodePayloadBits, BitVec.ofNat_toNat]

/-- Settles O53: `invalid_o` is the range check of ENC, and below the bound the wires carry the parallel form. -/
theorem encoderPortsComputeEnc : Obligations.EncoderPortsComputeEnc := by
  unfold Obligations.EncoderPortsComputeEnc
  intro width payload
  rw [encoderPorts_invalid_o, decide_eq_true_iff, decide_eq_false_iff_not, Nat.not_le]
  refine ⟨Iff.rfl, fun hlt => ?_, fun hge => (enc_eq_error_iff _ _).mpr ⟨hge, rfl⟩⟩
  rw [encoderPorts_codeword_o_of_lt hlt, enc_of_lt hlt]

/-- The decoder-syndrome block gives SYN and DEC of its word (rule R31). -/
theorem decoderSyndromePorts_eq (c : Word) : decoderSyndromePorts c = ⟨(syn c).1, (syn c).2, dec c⟩ := by
  rw [← decoderSyndromePorts_eq_syn, dec_eq_payloadWires]
  rfl

/-- The corrector gives CORB's word and the two fields of its status (rules R31, R117). -/
theorem correctorPorts_eq (c : Word) (y : Syndrome) (q : Bool) :
    correctorPorts c y q = ⟨(corb c y q).1, (corb c y q).2.err, (corb c y q).2.pos⟩ := by
  rw [← correctorPorts_codeword_o]
  cases q <;> rfl

/-- The receive path gives COR's word and status and DEC of that word: its corrector is wired to SYN of the word (rules R119,
R142). -/
theorem receivePathPorts_eq (c : Word) :
    receivePathPorts c = ⟨(cor c).1, dec (cor c).1, (cor c).2.err, (cor c).2.pos⟩ := by
  simp only [receivePathPorts, decoderSyndromePorts_eq, correctorPorts_eq, cor_eq_corb_syn]

/-- Settles O54: the wired blocks give COR's word and status and DEC of that word; DEC is linear in the flipped bit. -/
theorem receivePathPortsComputeRecv : Obligations.ReceivePathPortsComputeRecv := by
  unfold Obligations.ReceivePathPortsComputeRecv
  intro c
  rw [receivePathPorts_eq, recv_eq_cor_dec, ← dec_xor]
  refine ⟨rfl, rfl, rfl, rfl, ?_⟩
  rw [cor_eq_corb_syn, corb_eq_ite]
  rfl

theorem ErrorStatus.ofBits_bits (st : ErrorStatus) : ErrorStatus.ofBits st.bits = some st := by
  cases st with
  | noError => rfl
  | corrected k => revert k; decide

/-- Bits that read as a status are that status's bits (rule R58). -/
theorem ErrorStatus.bits_of_ofBits_eq_some {b : BitVec 5} {st : ErrorStatus} (h : ErrorStatus.ofBits b = some st) :
    st.bits = b := by
  have hall : ∀ b : BitVec 5, ∀ st ∈ ErrorStatus.ofBits b, st.bits = b := by decide
  exact hall b st h

/-- The highest bit of a status is its `err`; where it is 0 the bits are all 0 (rule R58). -/
theorem ErrorStatus.bits_eq_zero_of_getLsbD_four (st : ErrorStatus) (h : st.bits.getLsbD 4 = false) :
    st.bits = 0b00000#5 := by
  cases st with
  | noError => rfl
  | corrected k => revert k; decide

/-- Settles O55: a status and its bits determine each other, and the corrector's wires are the status's two fields. -/
theorem statusBitsRoundTrip : Obligations.StatusBitsRoundTrip := by
  unfold Obligations.StatusBitsRoundTrip
  refine ⟨rfl, fun _ => rfl, ErrorStatus.ofBits_bits, fun b st => ⟨ErrorStatus.bits_of_ofBits_eq_some, ?_⟩,
    fun b hb hne st hst => ?_, fun c y q => ?_⟩
  · rintro rfl
    exact st.ofBits_bits
  · subst hst
    exact hne (st.bits_eq_zero_of_getLsbD_four hb)
  · rw [correctorPorts_eq, ErrorStatus.bits]

end Sys2Proof.Machine
end

section
/-! The distance of the code (spec/41_encoder.md rule R94, spec/43_syndrome_and_corrector.md rule R126): a word is reached from
0 by flips at its 1-bits, so its weight is their number, and SYN says which numbers a valid codeword can have; flips at
distinct positions change as many bits. -/

namespace Sys2Proof.Machine

/-- The sixteen positions, by their numbers (rule R102). -/
def allPositions : List Position := (List.range 16).map (BitVec.ofNat 4)

theorem mem_allPositions : ∀ k : Position, k ∈ allPositions := by decide

theorem nodup_allPositions : allPositions.Nodup := by decide

/-- The positions of the 1-bits of a word. -/
def onePositions (w : Word) : List Position := allPositions.filter (bitAt w)

theorem mem_onePositions_iff (w : Word) (k : Position) : k ∈ onePositions w ↔ bitAt w k = true := by
  rw [onePositions, List.mem_filter, and_iff_right (mem_allPositions k)]

theorem nodup_onePositions (w : Word) : (onePositions w).Nodup := nodup_allPositions.filter _

theorem popcountBelow_eq_countP {width : Nat} (w : BitVec width) (n : Nat) :
    popcountBelow w n = (List.range n).countP w.getLsbD := by
  induction n with
  | zero => rfl
  | succ n ih =>
    rw [popcountBelow, ih, List.range_succ, List.countP_append, List.countP_singleton]
    cases w.getLsbD n <;> rfl

/-- The weight of a word is the number of its 1-bits' positions (rule R9). -/
theorem popcount_eq_length_onePositions (w : Word) : popcount w = (onePositions w).length := by
  rw [popcount, popcountBelow_eq_countP, onePositions, ← List.countP_eq_length_filter, allPositions, List.countP_map]
  refine List.countP_congr fun i hi => ?_
  have hmod : (BitVec.ofNat 4 i).toNat = i := Nat.mod_eq_of_lt (List.mem_range.mp hi)
  rw [Function.comp_apply, bitAt, hmod]

/-- A word is 0 with its 1-bits flipped. -/
theorem foldl_flipBit_onePositions (w : Word) : (onePositions w).foldl flipBit 0x0000#16 = w := by
  refine word_eq_of_bitAt_eq fun k => ?_
  rw [bitAt_foldl_flipBit _ (nodup_onePositions w), bitAt_zero_word, Bool.false_xor]
  simp only [mem_onePositions_iff, Bool.decide_eq_true]

/-- SYN of a word adds up the positions of its 1-bits (rules R110, R111). -/
theorem syn_eq_foldl_onePositions (w : Word) :
    syn w = ((onePositions w).foldl (· ^^^ ·) 0b0000#4, decide ((onePositions w).length % 2 = 1)) := by
  have h := syn_foldl_flipBit 0x0000#16 (onePositions w)
  rwa [foldl_flipBit_onePositions, (validCodeword_iff _).mp validCodeword_zero, Bool.false_xor] at h

theorem bitAt_xor (u v : Word) (k : Position) : bitAt (u ^^^ v) k = (bitAt u k ^^ bitAt v k) := BitVec.getLsbD_xor

/-- Flips at distinct positions change as many bits as there are flips (rule R104). -/
theorem popcount_foldl_flipBit_xor (v : Word) {ks : List Position} (hks : ks.Nodup) :
    popcount (ks.foldl flipBit v ^^^ v) = ks.length := by
  rw [popcount_eq_length_onePositions]
  refine ((List.perm_ext_iff_of_nodup (nodup_onePositions _) hks).mpr fun k => ?_).length_eq
  rw [mem_onePositions_iff, bitAt_xor, bitAt_foldl_flipBit v hks, Bool.xor_comm, ← Bool.xor_assoc, Bool.xor_self,
    Bool.false_xor, decide_eq_true_iff]

/-- The weight of a valid codeword is even (rule R94). -/
theorem popcount_even_of_validCodeword {u : Word} (h : validCodeword u = true) : popcount u % 2 = 0 := by
  have hpar := par_maskAll_of_validCodeword h
  rw [par_maskAll_eq_decide_popcount, decide_eq_false_iff_not] at hpar
  omega

/-- No valid codeword has weight 2: the two positions would be equal, because their exclusive or is the syndrome 0. -/
theorem popcount_ne_two_of_validCodeword {u : Word} (h : validCodeword u = true) : popcount u ≠ 2 := by
  intro htwo
  rw [popcount_eq_length_onePositions] at htwo
  obtain ⟨j, k, hjk⟩ := List.length_eq_two.mp htwo
  have hnodup := nodup_onePositions u
  have hsyn := (syn_eq_foldl_onePositions u).symm.trans ((validCodeword_iff u).mp h)
  rw [hjk] at hnodup hsyn
  simp only [List.foldl_cons, List.foldl_nil, BitVec.zero_xor, Prod.mk.injEq, BitVec.xor_eq_zero_iff] at hsyn
  obtain ⟨rfl, -⟩ := hsyn
  simp at hnodup

theorem eq_zero_of_popcount_eq_zero {u : Word} (h : popcount u = 0) : u = 0x0000#16 := by
  rw [popcount_eq_length_onePositions, List.length_eq_zero_iff] at h
  rw [← foldl_flipBit_onePositions u, h, List.foldl_nil]

/-- A valid codeword other than 0 has at least four 1-bits: the weights 1 and 3 are odd, and 2 is ruled out (rule R94). -/
theorem four_le_popcount_of_validCodeword {u : Word} (h : validCodeword u = true) (hne : u ≠ 0x0000#16) :
    4 ≤ popcount u := by
  have hzero : popcount u ≠ 0 := fun hu => hne (eq_zero_of_popcount_eq_zero hu)
  have htwo := popcount_ne_two_of_validCodeword h
  have heven := popcount_even_of_validCodeword h
  omega

/-- Settles O21: the difference of two valid codewords is a valid codeword, and the weights of those are even and not 2. -/
theorem validCodewordsDifferInFourPositions : Obligations.ValidCodewordsDifferInFourPositions := by
  unfold Obligations.ValidCodewordsDifferInFourPositions
  refine ⟨fun _ _ => validCodeword_xor, fun _ => four_le_popcount_of_validCodeword, fun u v hu hv hne => ?_,
    fun _ => popcount_even_of_validCodeword⟩
  exact four_le_popcount_of_validCodeword (validCodeword_xor hu hv) fun hzero => hne (BitVec.xor_eq_zero_iff.mp hzero)

/-- Flips in a valid codeword: SYN gives the exclusive or of the positions and the parity of their number (rule R111). -/
theorem syn_foldl_flipBit_of_validCodeword {v : Word} (h : validCodeword v = true) (ks : List Position) :
    syn (ks.foldl flipBit v) = (ks.foldl (· ^^^ ·) 0b0000#4, decide (ks.length % 2 = 1)) := by
  rw [syn_foldl_flipBit, (validCodeword_iff v).mp h, Bool.false_xor]

/-- The exclusive or of three distinct positions is a fourth: were it one of them, the other two would be equal. -/
theorem foldl_xor_not_mem_of_length_three {ks : List Position} (hks : ks.Nodup) (hlength : ks.length = 3) :
    ks.foldl (· ^^^ ·) 0b0000#4 ∉ ks := by
  obtain ⟨a, b, c, rfl⟩ := List.length_eq_three.mp hlength
  have hne : (a ≠ b ∧ a ≠ c) ∧ b ≠ c := by simpa using hks
  obtain ⟨⟨hab, hac⟩, hbc⟩ := hne
  simp only [List.foldl_cons, List.foldl_nil, BitVec.zero_xor, List.mem_cons, List.not_mem_nil, or_false, not_or]
  refine ⟨fun ha => hbc ?_, fun hb => hac ?_, fun hc => hab ?_⟩
  · simpa [BitVec.xor_assoc] using ha
  · simpa [BitVec.xor_comm a b, BitVec.xor_assoc] using hb
  · simpa using hc

/-- A word of odd overall parity whose syndrome is `e` becomes a valid codeword when `e` is flipped (rules R119, R120). -/
theorem validCodeword_flipBit_of_syn {c : Word} {e : Position} (h : syn c = (e, true)) :
    validCodeword (flipBit c e) = true := by
  rw [validCodeword_iff, syn_flipBit, h, BitVec.xor_self, Bool.not_true]

/-- Settles O34: SYN shows the exclusive or of the flipped positions and the parity of their number, which decides what COR
does; the number of flips is the number of changed bits, so no flip at `e` undoes three or more. -/
theorem corOnThreeOrMoreErrors : Obligations.CorOnThreeOrMoreErrors := by
  unfold Obligations.CorOnThreeOrMoreErrors
  intro v ks e hvalid hks hlength he
  have hsyn := syn_foldl_flipBit_of_validCodeword hvalid ks
  rw [← he] at hsyn
  refine ⟨fun hodd => ?_, fun heven => ?_, fun hthree => ?_⟩
  · rw [decide_eq_true hodd] at hsyn
    refine ⟨by rw [cor_eq_corb_syn, hsyn, corb_true], validCodeword_flipBit_of_syn hsyn, fun hback => ?_⟩
    have hweight := popcount_foldl_flipBit_xor v hks
    have hone := popcount_oneHot e
    rw [← flipBit_xor_self, hback, BitVec.xor_comm] at hone
    omega
  · rw [decide_eq_false (by omega)] at hsyn
    rw [cor_eq_corb_syn, hsyn, corb_false]
  · have hmem : e ∉ ks := he ▸ foldl_xor_not_mem_of_length_three hks hthree
    have hfour := popcount_foldl_flipBit_xor v (hks.concat hmem)
    rw [List.concat_eq_append, List.foldl_append, List.length_append, hthree] at hfour
    exact ⟨hmem, hfour⟩

end Sys2Proof.Machine
end
